-- ==== Sys2Proof/Word.lean ====
section
/-!
DEFINITION. The word types of SPIBB: the 64-bit command word (R80), bytes, pin ids and slot numbers.
-/

namespace Sys2Proof

/-- A byte of the data buffer or of a frame (R60, R91). -/
abbrev Byte := BitVec 8

/-- One command word, SPIBB-CMD64 (R80). -/
abbrev Command := BitVec 64

/-- A value of one host-visible register (R22). -/
abbrev RegWord := BitVec 32

/-- A transfer value and the received accumulator, `XFER_WIDTH` = 16 bits (R7). -/
abbrev XferWord := BitVec 16

/-- A pin id (R60): 0x00 to 0xFE name pins, 0xFF is `NONE`. -/
abbrev PinId := BitVec 8

/-- A device slot number, 0 to 15 (R33, R83). -/
abbrev SlotId := Fin 16

/-- The level of a pin, one bit: `false` is 0 (low), `true` is 1 (high). -/
abbrev Level := Bool

/-- `NONE`, the no-op pin that stands for every unwired line (R27, R66). -/
def noPin : PinId := 0xFF#8

end Sys2Proof
end

