-- ==== Sys2Proof/Syntax.lean ====
section
/-!
DEFINITION. The eleven commands of spec/opcode_table.json, one constructor each, with the fields of R83 to R91.
-/

namespace Sys2Proof

/-- CPHA (R13, R85): 0 samples on the leading edge, 1 on the trailing edge. -/
inductive ClockPhase where
  /-- CPHA = 0. -/
  | leading
  /-- CPHA = 1. -/
  | trailing
  deriving DecidableEq, Repr

/-- ORDER (R13, R85): 0 is most significant bit first, 1 is least significant bit first. -/
inductive BitOrder where
  /-- ORDER = 0. -/
  | msbFirst
  /-- ORDER = 1. -/
  | lsbFirst
  deriving DecidableEq, Repr

/-- A command of SPIBB. `nbits` is a count, bounded by `Instr.wf`; every other field has the width of its encoding. -/
inductive Instr where
  /-- SETUP (R112, format S). -/
  | setup (clk sdo sdi : PinId) (hw : Bool) (iface : BitVec 8)
  /-- REGISTER (R118, format G). -/
  | register (d : SlotId) (cpol : Level) (cpha : ClockPhase) (order : BitOrder) (cs : PinId) (rate : BitVec 32)
  /-- UNREGISTER (R124, format D). -/
  | unregister (d : SlotId)
  /-- SET_DC (R127, format P). -/
  | setDc (d : SlotId) (dc : PinId)
  /-- BEGIN (R180, format D). -/
  | beginTxn (d : SlotId)
  /-- END (R184, format D). -/
  | endTxn (d : SlotId)
  /-- TRANSFER (R150, format X). -/
  | transfer (d : SlotId) (value : XferWord) (nbits : Nat)
  /-- WRITE (R153, format X). -/
  | write (d : SlotId) (value : XferWord) (nbits : Nat)
  /-- TRANSFER8 (R156, format B). -/
  | transfer8 (d : SlotId) (byte : Byte)
  /-- IS_READY (R130, format D). -/
  | isReady (d : SlotId)
  /-- WRITE_CMD_DATA (R200, format F): `cp` says whether the command byte `cmd` is sent. -/
  | writeCmdData (d : SlotId) (cp : Bool) (cmd : Byte) (len addr : BitVec 16)
  deriving DecidableEq, Repr

end Sys2Proof
end

