-- ==== Sys2Proof/WellFormed.lean ====
section
/-!
DEFINITION. The field values that R89 makes illegal although their bits are not reserved. Every other bound on a
field is the width of its type.
-/

namespace Sys2Proof

/-- `NBITS` is 1 to `MAX_NBITS` = 16 (R7, R89). -/
def nbitsLegal (n : Nat) : Bool := decide (1 ≤ n) && decide (n ≤ 16)

/-- A rate of zero has no half-period (R89). -/
def rateLegal (r : BitVec 32) : Bool := decide (r ≠ 0#32)

/-- The command has a legal encoding (R89). -/
def Instr.wf : Instr → Bool
  | .setup _ _ _ _ _ => true
  | .register _ _ _ _ _ rate => rateLegal rate
  | .unregister _ => true
  | .setDc _ _ => true
  | .beginTxn _ => true
  | .endTxn _ => true
  | .transfer _ _ n => nbitsLegal n
  | .write _ _ n => nbitsLegal n
  | .transfer8 _ _ => true
  | .isReady _ => true
  | .writeCmdData _ _ _ _ _ => true

end Sys2Proof
end

