-- ==== Sys2Proof/Decode.lean ====
section
/-!
DEFINITION. SPIBB-CMD64: decode (R100), which is total and rejects by name, and encode, both from the field table
of R82 and the masks of spec/opcode_table.json.
-/

namespace Sys2Proof

/-- Why a word is an illegal command (R98). -/
inductive Illegal where
  /-- Opcode 0x0 or 0xC to 0xF (R96). -/
  | reservedOpcode
  /-- A defined opcode with a 1 in a bit its format reserves (R97). -/
  | reservedBit
  /-- TRANSFER or WRITE with NBITS = 0 or above 16 (R89). -/
  | nbitsRange
  /-- REGISTER with RATE = 0 (R89). -/
  | rateZero
  deriving DecidableEq, Repr

/-- Field `[lo+len-1 : lo]` of a command word (R9). -/
def field (w : Command) (lo len : Nat) : BitVec len := w.extractLsb' lo len

/-- DEV, bits [59:56] (R83). -/
def fieldDev (w : Command) : SlotId := (field w 56 4).toFin

/-- CPHA of a one-bit field (R85). -/
def phaseOfBit (b : Bool) : ClockPhase := if b then .trailing else .leading

/-- ORDER of a one-bit field (R85). -/
def orderOfBit (b : Bool) : BitOrder := if b then .lsbFirst else .msbFirst

/-- The one-bit field of a phase (R85). -/
def bitOfPhase : ClockPhase → Bool
  | .leading => false
  | .trailing => true

/-- The one-bit field of a bit order (R85). -/
def bitOfOrder : BitOrder → Bool
  | .msbFirst => false
  | .lsbFirst => true

/-- `i` if the word's reserved bits are 0, that is `(w & mask) = match` (R97). -/
def ifMatches (w mask mtch : Command) (i : Except Illegal Instr) : Except Illegal Instr :=
  if w &&& mask = mtch then i else .error .reservedBit

/-- `i` if its NBITS or RATE is legal (R89), else `e`. -/
def ifLegal (e : Illegal) (i : Instr) : Except Illegal Instr := if i.wf then .ok i else .error e

/-- Decode (R100): total, reads no state. -/
def decode (w : Command) : Except Illegal Instr :=
  match (field w 60 4).toNat with
  | 0x1 => ifMatches w 0xFFFF0000007F00FF#64 0x1000000000000000#64
      (.ok (.setup (field w 40 8) (field w 32 8) (field w 24 8) (w.getLsbD 23) (field w 8 8)))
  | 0x2 => ifMatches w 0xF01F00FF00000000#64 0x2000000000000000#64
      (ifLegal .rateZero (.register (fieldDev w) (w.getLsbD 55) (phaseOfBit (w.getLsbD 54)) (orderOfBit (w.getLsbD 53))
        (field w 40 8) (field w 0 32)))
  | 0x3 => ifMatches w 0xF0FFFFFFFFFFFFFF#64 0x3000000000000000#64 (.ok (.unregister (fieldDev w)))
  | 0x4 => ifMatches w 0xF0FF00FFFFFFFFFF#64 0x4000000000000000#64 (.ok (.setDc (fieldDev w) (field w 40 8)))
  | 0x5 => ifMatches w 0xF0FFFFFFFFFFFFFF#64 0x5000000000000000#64 (.ok (.beginTxn (fieldDev w)))
  | 0x6 => ifMatches w 0xF0FFFFFFFFFFFFFF#64 0x6000000000000000#64 (.ok (.endTxn (fieldDev w)))
  | 0x7 => ifMatches w 0xF0E0FFFFFFFF0000#64 0x7000000000000000#64
      (ifLegal .nbitsRange (.transfer (fieldDev w) (field w 0 16) (field w 48 5).toNat))
  | 0x8 => ifMatches w 0xF0E0FFFFFFFF0000#64 0x8000000000000000#64
      (ifLegal .nbitsRange (.write (fieldDev w) (field w 0 16) (field w 48 5).toNat))
  | 0x9 => ifMatches w 0xF0FFFFFFFFFFFF00#64 0x9000000000000000#64 (.ok (.transfer8 (fieldDev w) (field w 0 8)))
  | 0xA => ifMatches w 0xF0FFFFFFFFFFFFFF#64 0xA000000000000000#64 (.ok (.isReady (fieldDev w)))
  | 0xB => ifMatches w 0xF07F00FF00000000#64 0xB000000000000000#64
      (.ok (.writeCmdData (fieldDev w) (w.getLsbD 55) (field w 40 8) (field w 16 16) (field w 0 16)))
  | _ => .error .reservedOpcode

/-- The instruction of a table row's word: its bits are numbered as spec/opcode_table.json numbers them, and a command
is one 64-bit unit that SPIBB never splits into bytes (R69). -/
def decodeTableWord (nbits w : Nat) : Option Instr :=
  match decode ((BitVec.ofNat nbits w).setWidth 64) with
  | .ok i => some i
  | .error _ => none

/-- DEV as a four-bit field (R83). -/
def devBits (d : SlotId) : BitVec 4 := BitVec.ofFin d

/-- The word with `v` in the field whose lowest bit is `lo`, every other bit 0 (R9, R82). -/
def placed {n : Nat} (lo : Nat) (v : BitVec n) : Command := v.setWidth 64 <<< lo

/-- OP in [63:60] and DEV in [59:56] (R81, R83). -/
def encodeHead (op : BitVec 4) (d : SlotId) : Command := placed 60 op ||| placed 56 (devBits d)

/-- A word of format X (R88). -/
def encodeX (op : BitVec 4) (d : SlotId) (value : XferWord) (n : Nat) : Command :=
  encodeHead op d ||| placed 48 (BitVec.ofNat 5 n) ||| placed 0 value

/-- Encode (R82): the fields in their places, every reserved bit 0. -/
def encode : Instr → Command
  | .setup clk sdo sdi hw iface =>
      placed 60 0x1#4 ||| placed 40 clk ||| placed 32 sdo ||| placed 24 sdi ||| placed 23 (BitVec.ofBool hw) |||
        placed 8 iface
  | .register d cpol cpha order cs rate =>
      encodeHead 0x2#4 d ||| placed 55 (BitVec.ofBool cpol) ||| placed 54 (BitVec.ofBool (bitOfPhase cpha)) |||
        placed 53 (BitVec.ofBool (bitOfOrder order)) ||| placed 40 cs ||| placed 0 rate
  | .unregister d => encodeHead 0x3#4 d
  | .setDc d dc => encodeHead 0x4#4 d ||| placed 40 dc
  | .beginTxn d => encodeHead 0x5#4 d
  | .endTxn d => encodeHead 0x6#4 d
  | .transfer d value n => encodeX 0x7#4 d value n
  | .write d value n => encodeX 0x8#4 d value n
  | .transfer8 d byte => encodeHead 0x9#4 d ||| placed 0 byte
  | .isReady d => encodeHead 0xA#4 d
  | .writeCmdData d cp cmd len addr =>
      encodeHead 0xB#4 d ||| placed 55 (BitVec.ofBool cp) ||| placed 40 cmd ||| placed 16 len ||| placed 0 addr

end Sys2Proof
end

