-- ==== Sys2Proof/Config.lean ====
section
/-!
DEFINITION. The parameters of R7 and R8, and the environment's free answers (R41).
-/

namespace Sys2Proof

/-- The answer of the hardware bus factory, `HW_FACTORY` (R7, R112). -/
inductive FactoryAnswer where
  /-- The factory returned a hardware bus handle. -/
  | ok
  /-- The factory could not allocate one. -/
  | fail
  deriving DecidableEq, Repr, Inhabited

/-- The parameters a model of SPIBB takes as arguments (R7, R8). They are fixed for a machine: no step changes them. -/
structure Params where
  /-- `NOOP_READ_VALUE`, the bit a read of the no-op pin returns (R66). -/
  noopRead : Level
  /-- `CS_ACTIVE_LEVEL`, the level that asserts chip-select (R180). -/
  csActive : Level
  /-- `DC_COMMAND_LEVEL`, the mode-select level meaning "command"; "data" is its complement (R200). -/
  dcCommand : Level
  /-- `PAR_PINS`, the parallel data pins, passed to the hardware bus factory only (R27). -/
  parPins : List PinId
  deriving DecidableEq, Repr

namespace Config

/-- The spec's defaults (R7). It gives none for `PAR_PINS`: the empty list is a DESIGN CHOICE (log entry 4). -/
def defaults : Params := { noopRead := false, csActive := false, dcCommand := false, parPins := [] }

/-- `NUM_SLOTS` (R7). -/
def numSlots : Nat := 16

/-- `DBUF_SIZE` (R7). -/
def dbufSize : Nat := 65536

/-- The real pins are those with ids below this number, `NONE` (R60). -/
def numPins : Nat := 255

/-- `SDI_DRAW` (R65): the free bit the environment answers to a read of the data-in pin, one per draw (log entry 1). -/
opaque sdiDraw (draw : Nat) : Level

/-- `HW_FACTORY` (R112): the free answer to a hardware bus request with its arguments, one per draw (log entry 1). -/
opaque hwFactory (draw : Nat) (iface : BitVec 8) (clk sdo sdi : PinId) (parPins : List PinId) : FactoryAnswer

/-- `HW_READY` (R130): the free readiness answer of the hardware backend, one per draw (log entry 1). -/
opaque hwReady (draw : Nat) (d : SlotId) : Bool

end Config

end Sys2Proof
end

