-- ==== Sys2Proof/Machine/State.lean ====
section
/-!
DEFINITION. The state of SPIBB (spec/10_state.md), the reset state (R42), and the reasons a step can stop.
-/

namespace Sys2Proof.Machine

/-- CSTATE, the controller state (R23). -/
inductive CState where
  /-- 0: no SETUP has completed. -/
  | unconfigured
  /-- 1: software bit-bang bus set up. -/
  | readySw
  /-- 2: hardware-backed bus set up. -/
  | readyHw
  /-- 3: setup failed; permanent until reset. -/
  | failed
  deriving DecidableEq, Repr

/-- KIND, the delegate variant of a slot (R35). -/
inductive Kind where
  /-- 0: the null delegate, "not yet configured". -/
  | null
  /-- 1: the bit-bang delegate. -/
  | bitbang
  /-- 2: the hardware-backed delegate. -/
  | hw
  deriving DecidableEq, Repr

/-- The error codes 1 to 8 (R230); code 0 is the absence of one. -/
inductive ErrCode where
  /-- 1, E_SETUP_NO_CLK. -/
  | setupNoClk
  /-- 2, E_SETUP_HW_ALLOC. -/
  | setupHwAlloc
  /-- 3, E_REG_DUPLICATE. -/
  | regDuplicate
  /-- 4, E_UNREG_UNKNOWN. -/
  | unregUnknown
  /-- 5, E_UNINIT. -/
  | uninit
  /-- 6, E_NOT_READY. -/
  | notReady
  /-- 7, E_ILLEGAL. -/
  | illegal
  /-- 8, E_RANGE. -/
  | range
  deriving DecidableEq, Repr

/-- The STATUS register (R24). `lastErr = none` is code 0. -/
structure Status where
  /-- LAST_ERR, bits [3:0]. -/
  lastErr : Option ErrCode
  /-- S_FATAL, bit [4], sticky. -/
  sFatal : Bool
  /-- S_REG, bit [5], sticky. -/
  sReg : Bool
  /-- S_UNINIT, bit [6], sticky. -/
  sUninit : Bool
  /-- S_ILLEGAL, bit [7], sticky. -/
  sIllegal : Bool
  deriving DecidableEq, Repr

/-- The bus descriptor: BUSPINS (R27) and BUSIFACE (R28). -/
structure Bus where
  /-- BUSPINS.CLK, bits [7:0]. -/
  clk : PinId
  /-- BUSPINS.SDO, bits [15:8]. -/
  sdo : PinId
  /-- BUSPINS.SDI, bits [23:16]. -/
  sdi : PinId
  /-- BUSPINS.HW, bit [24]. -/
  hw : Bool
  /-- BUSIFACE.IFACE, bits [7:0]. -/
  iface : BitVec 8
  deriving DecidableEq, Repr

/-- One device slot: SLOTn_CFG (R34) and SLOTn_RATE (R36). IN_TXN is no storage but a view of the owner (R38). -/
structure Slot where
  /-- KIND, bits [1:0]. -/
  kind : Kind
  /-- CPOL, bit [2]: the clock idle level. -/
  cpol : Level
  /-- CPHA, bit [3]. -/
  cpha : ClockPhase
  /-- ORDER, bit [4]. -/
  order : BitOrder
  /-- CS, bits [15:8]: the chip-select pin. -/
  cs : PinId
  /-- DC, bits [23:16]: the mode-select pin (R39). -/
  dc : PinId
  /-- SLOTn_RATE: bits per second. -/
  rate : BitVec 32
  deriving DecidableEq, Repr

/-- The direction of a pin that `PinSetup` has configured (R31); a pin not listed is UNSET. -/
inductive Dir where
  /-- OUT. -/
  | output
  /-- IN. -/
  | input
  deriving DecidableEq, Repr

/-- The events of the trace (R30). -/
inductive Event where
  /-- `SETUPPIN(p, dir)`. -/
  | setupPin (p : PinId) (dir : Dir)
  /-- `W(p, b)`. -/
  | write (p : PinId) (b : Level)
  /-- `R(p, b)`. -/
  | read (p : PinId) (b : Level)
  /-- `H`, one half-period wait. -/
  | half
  /-- `A`, one liveness notification. -/
  | alive
  /-- `E(code)`. -/
  | err (code : ErrCode)
  /-- `FACTORY(result)`. -/
  | factory (result : FactoryAnswer)
  deriving DecidableEq, Repr

/-- The kinds of precondition fault (R236), the values of the fault mark (R32). -/
inductive FaultKind where
  /-- PIN_ALIAS. -/
  | pinAlias
  /-- NESTED_BEGIN. -/
  | nestedBegin
  /-- BUS_BUSY. -/
  | busBusy
  /-- TRANSFER_OUTSIDE_TXN. -/
  | transferOutsideTxn
  /-- UNREGISTER_IN_TXN. -/
  | unregisterInTxn
  /-- UNWRITTEN_DBUF. -/
  | unwrittenDbuf
  deriving DecidableEq, Repr

/-- What the host does at its port, between commands (spec/44_host_port.md). -/
inductive HostAction where
  /-- Issue one command word (R223). -/
  | command (w : Command)
  /-- Read register `r` (R220). -/
  | readReg (r : BitVec 8)
  /-- Write `m` to register `r`; only STATUS takes it, as a clear mask (R221). -/
  | writeReg (r : BitVec 8) (m : RegWord)
  /-- Write byte `b` at data-buffer address `a` (R222). -/
  | writeBuf (a : BitVec 16) (b : Byte)
  /-- Apply reset (R260). -/
  | reset
  deriving DecidableEq, Repr

/-- Sparse data by key: (key, value) pairs, keys strictly rising. A key not listed holds no value. -/
abbrev Cells (β : Type) := List (Nat × β)

/-- The data buffer: the written bytes (R62). An address not listed is marked unwritten and reads as no value. -/
abbrev Memory := List Host.Cell

/-- The environment (R14, R41): what the host will do, what it got back, and the answers it will give. It is not state
of SPIBB; it stands in State because a step takes nothing else (log entries 1 and 2). -/
structure Env where
  /-- The host's actions still to come, oldest first. -/
  actions : List HostAction
  /-- Register reads returned to the host, oldest first: register number and value (R220, R225). -/
  received : List (BitVec 8 × RegWord)
  /-- Answers fixed for the next reads of the data-in line (`SDI_DRAW`). -/
  sdi : List Level
  /-- Answers fixed for the next hardware bus requests (`HW_FACTORY`). -/
  factory : List FactoryAnswer
  /-- Answers fixed for the next readiness questions (`HW_READY`). -/
  ready : List Bool
  /-- How many free answers were drawn from Config because the list was empty. -/
  drawn : Nat
  deriving DecidableEq, Repr

/-- The state of SPIBB (spec/10_state.md), its parameters (R7) and its environment (R41). -/
@[ext]
structure State where
  /-- The index of the next command (R21). -/
  pc : Nat
  /-- STATE.CSTATE (R23). -/
  cstate : CState
  /-- STATUS (R24). -/
  status : Status
  /-- RESULT[15:0]; bits [31:16] read 0 (R25). -/
  result : XferWord
  /-- OWNER (R26): the slot inside a transaction, none when OWNER_VALID = 0. -/
  owner : Option SlotId
  /-- BUSPINS and BUSIFACE (R27, R28). -/
  bus : Bus
  /-- The sixteen device slots (R33). -/
  slots : Vector Slot 16
  /-- `dir[p]` (R31): a pin not listed is UNSET. -/
  dir : Cells Dir
  /-- `lvl[p]` (R31): the level last driven; a pin not listed is X, never driven. -/
  lvl : Cells Level
  /-- DBUF and its written marks (R61, R62). -/
  dbuf : Memory
  /-- The trace, oldest event first (R30). -/
  trace : List Event
  /-- The fault mark (R32). -/
  fault : Option FaultKind
  /-- The parameters of the machine (R7, R8). -/
  params : Params
  /-- The environment (R41). -/
  env : Env
  deriving DecidableEq, Repr

/-- Why a step stops with a fault: the precondition faults of R236, each with the faulted state, which is final (R15)
and carries the fault mark. All six are safe: the hardware does not check the precondition and may run on (R237). -/
inductive Fault where
  /-- PIN_ALIAS: SETUP, REGISTER or SET_DC gives one pin two roles (R110). Safe. -/
  | pinAlias (final : State)
  /-- NESTED_BEGIN: BEGIN or WRITE_CMD_DATA on the slot that already holds the bus (R179). Safe. -/
  | nestedBegin (final : State)
  /-- BUS_BUSY: BEGIN or WRITE_CMD_DATA on a registered slot while another slot holds the bus (R179). Safe. -/
  | busBusy (final : State)
  /-- TRANSFER_OUTSIDE_TXN: TRANSFER, WRITE or TRANSFER8 on a registered slot that does not hold the bus (R177). Safe. -/
  | transferOutsideTxn (final : State)
  /-- UNREGISTER_IN_TXN: UNREGISTER of the slot that holds the bus (R124). Safe. -/
  | unregisterInTxn (final : State)
  /-- UNWRITTEN_DBUF: WRITE_CMD_DATA reads a byte the host never wrote (R61). Safe. -/
  | unwrittenDbuf (final : State)
  deriving DecidableEq, Repr

/-- Why a step is refused. Nothing raises it: every word has a meaning (R15) and every instruction is modelled. -/
inductive Refusal where
  /-- An instruction without a meaning yet; no arm of exec answers it. Safe. -/
  | notModelled (mnemonic : String)
  deriving DecidableEq, Repr

/-- The answer of a meaning or a step. -/
abbrev Result := Host.Outcome State Fault Refusal

/-- STATUS at reset (R42). -/
def Status.reset : Status := { lastErr := none, sFatal := false, sReg := false, sUninit := false, sIllegal := false }

/-- BUSPINS and BUSIFACE at reset (R42). -/
def Bus.reset : Bus := { clk := noPin, sdo := noPin, sdi := noPin, hw := false, iface := 0#8 }

/-- A slot at reset (R42): bound to the null delegate. -/
def Slot.reset : Slot :=
  { kind := .null, cpol := false, cpha := .leading, order := .msbFirst, cs := noPin, dc := noPin, rate := 0#32 }

/-- An environment that has fixed nothing: no action, no answer (log entries 1 and 2). -/
def Env.idle : Env := { actions := [], received := [], sdi := [], factory := [], ready := [], drawn := 0 }

/-- The machine right after reset (R42), with the spec's default parameters (R7). -/
def State.reset : State :=
  { pc := 0
    cstate := .unconfigured
    status := Status.reset
    result := 0#16
    owner := none
    bus := Bus.reset
    slots := Vector.replicate 16 Slot.reset
    dir := []
    lvl := []
    dbuf := []
    trace := []
    fault := none
    params := Config.defaults
    env := Env.idle }

end Sys2Proof.Machine
end

