-- ==== Sys2Proof/Machine/Flags.lean ====
section
/-!
DEFINITION. STATUS: the error codes, what a report sets, what a command start and the host clear
(spec/60_exceptions.md R230 to R232, spec/44_host_port.md R221).
-/

namespace Sys2Proof.Machine

/-- The number of an error code (R230). -/
def ErrCode.code : ErrCode → BitVec 4
  | .setupNoClk => 1#4
  | .setupHwAlloc => 2#4
  | .regDuplicate => 3#4
  | .unregUnknown => 4#4
  | .uninit => 5#4
  | .notReady => 6#4
  | .illegal => 7#4
  | .range => 8#4

/-- LAST_ERR as it reads: 0 when there is no report (R230). -/
def codeOfErr : Option ErrCode → BitVec 4
  | none => 0#4
  | some c => c.code

/-- What `Report(code)` does to STATUS (R232). -/
def Status.report (c : ErrCode) (t : Status) : Status :=
  let t' := { t with lastErr := some c }
  match c with
  | .setupNoClk | .setupHwAlloc => { t' with sFatal := true }
  | .regDuplicate | .unregUnknown | .notReady => { t' with sReg := true }
  | .uninit => { t' with sUninit := true }
  | .illegal | .range => { t' with sIllegal := true }

/-- What the start of a command does to STATUS (R231). -/
def Status.clearErr (t : Status) : Status := { t with lastErr := none }

/-- What the host's write of mask `m` to STATUS does: `STATUS[7:4] <- STATUS[7:4] AND NOT m[7:4]` (R221). -/
def Status.clearSticky (m : RegWord) (t : Status) : Status :=
  { t with
    sFatal := t.sFatal && !m.getLsbD 4
    sReg := t.sReg && !m.getLsbD 5
    sUninit := t.sUninit && !m.getLsbD 6
    sIllegal := t.sIllegal && !m.getLsbD 7 }

/-- The register value with `v` in the field whose lowest bit is `lo`, every other bit 0 (R9). -/
def regField {n : Nat} (lo : Nat) (v : BitVec n) : RegWord := v.setWidth 32 <<< lo

/-- The register value with `b` in bit `i`, every other bit 0. -/
def regBit (i : Nat) (b : Bool) : RegWord := regField i (BitVec.ofBool b)

/-- STATUS as the host reads it (R24). -/
def Status.word (t : Status) : RegWord :=
  regField 0 (codeOfErr t.lastErr) ||| regBit 4 t.sFatal ||| regBit 5 t.sReg ||| regBit 6 t.sUninit ||| regBit 7 t.sIllegal

end Sys2Proof.Machine
end

