-- ==== Sys2Proof/Machine/Ops.lean ====
section
/-!
DEFINITION. The shared operations of the pseudocode (R10): cells, the trace, pins, waits, reports, faults, the data
buffer, the slots and the environment's answers.
-/

namespace Sys2Proof.Machine

/-- The value at key `a`, none when `a` is not listed. -/
def Cells.read {β : Type} : Cells β → Nat → Option β
  | [], _ => none
  | (k, v) :: r, a => if k = a then some v else Cells.read r a

/-- The cells with value `v` at key `a`, in rising order of keys. -/
def Cells.write {β : Type} (a : Nat) (v : β) : Cells β → Cells β
  | [] => [(a, v)]
  | (k, w) :: r => if a < k then (a, v) :: (k, w) :: r else if a = k then (a, v) :: r else (k, w) :: Cells.write a v r

/-- The canonical form of cells: keys strictly rising and below `bound`. -/
abbrev Cells.wf {β : Type} (bound : Nat) (c : Cells β) : Prop :=
  c.Pairwise (fun x y => x.1 < y.1) ∧ ∀ x ∈ c, x.1 < bound

/-- The canonical form of the data buffer (R60): equal buffers are equal lists. -/
abbrev Memory.wf (m : Memory) : Prop := Cells.wf Config.dbufSize m

/-- The host's write of a byte: its address becomes written (R62, R222). -/
def Memory.write (a : BitVec 16) (b : Byte) (m : Memory) : Memory := Cells.write a.toNat b m

/-- `emit(ev)`: append to the trace (R30). -/
def State.emit (e : Event) (s : State) : State := { s with trace := s.trace ++ [e] }

/-- `pc <- pc + 1` (R21). -/
def State.advance (s : State) : State := { s with pc := s.pc + 1 }

/-- The command is complete: `pc <- pc + 1`, next state. -/
def complete (s : State) : Result := .next s.advance

/-- `reg.RESULT <- zext_32(v)` (R25). -/
def State.setResult (v : XferWord) (s : State) : State := { s with result := v }

/-- `slot[d]` (R33). -/
def State.slot (s : State) (d : SlotId) : Slot := s.slots[d.val]

/-- `slot[d] <- c`. -/
def State.setSlot (d : SlotId) (c : Slot) (s : State) : State := { s with slots := s.slots.set d.val c }

/-- `Report(code)` (R232). It stops nothing. -/
def State.report (c : ErrCode) (s : State) : State := { s with status := s.status.report c }.emit (.err c)

/-- The start of every command: `LAST_ERR <- 0` (R231). -/
def State.startCommand (s : State) : State := { s with status := s.status.clearErr }

/-- The fault of a kind, with its final state. -/
def Fault.of (k : FaultKind) (s : State) : Fault :=
  match k with
  | .pinAlias => .pinAlias s
  | .nestedBegin => .nestedBegin s
  | .busBusy => .busBusy s
  | .transferOutsideTxn => .transferOutsideTxn s
  | .unregisterInTxn => .unregisterInTxn s
  | .unwrittenDbuf => .unwrittenDbuf s

/-- The kind of a fault (R236). -/
def Fault.kind : Fault → FaultKind
  | .pinAlias _ => .pinAlias
  | .nestedBegin _ => .nestedBegin
  | .busBusy _ => .busBusy
  | .transferOutsideTxn _ => .transferOutsideTxn
  | .unregisterInTxn _ => .unregisterInTxn
  | .unwrittenDbuf _ => .unwrittenDbuf

/-- The state a fault leaves, which is final (R15). -/
def Fault.final : Fault → State
  | .pinAlias s => s
  | .nestedBegin s => s
  | .busBusy s => s
  | .transferOutsideTxn s => s
  | .unregisterInTxn s => s
  | .unwrittenDbuf s => s

/-- `raise Fault(kind)` (R236): the mark is set, the command stops where it stands, `pc` stays. -/
def raise (k : FaultKind) (s : State) : Result := .fault (Fault.of k { s with fault := some k })

/-- Run `f` on the next state of `r`; a fault or a refusal stays. -/
def andThen (r : Result) (f : State → Result) : Result :=
  match r with
  | .next s => f s
  | .fault x => .fault x
  | .refused x => .refused x

/-- `PinSetup(p, dir)` (R63). -/
def State.pinSetup (p : PinId) (d : Dir) (s : State) : State :=
  if p = noPin then s else { s with dir := Cells.write p.toNat d s.dir }.emit (.setupPin p d)

/-- `PinWrite(p, b)` (R64). -/
def State.pinWrite (p : PinId) (b : Level) (s : State) : State :=
  if p = noPin then s else { s with lvl := Cells.write p.toNat b s.lvl }.emit (.write p b)

/-- One answer of `SDI_DRAW` (R65): the next one the environment has fixed, else a free one. -/
def State.drawSdi (s : State) : Level × State :=
  match s.env.sdi with
  | b :: rest => (b, { s with env := { s.env with sdi := rest } })
  | [] => (Config.sdiDraw s.env.drawn, { s with env := { s.env with drawn := s.env.drawn + 1 } })

/-- One answer of `HW_FACTORY` to a request with the given arguments and `PAR_PINS` (R112). -/
def State.drawFactory (iface : BitVec 8) (clk sdo sdi : PinId) (s : State) : FactoryAnswer × State :=
  match s.env.factory with
  | r :: rest => (r, { s with env := { s.env with factory := rest } })
  | [] => (Config.hwFactory s.env.drawn iface clk sdo sdi s.params.parPins,
      { s with env := { s.env with drawn := s.env.drawn + 1 } })

/-- One answer of `HW_READY(d)` (R130). -/
def State.drawReady (d : SlotId) (s : State) : Bool × State :=
  match s.env.ready with
  | r :: rest => (r, { s with env := { s.env with ready := rest } })
  | [] => (Config.hwReady s.env.drawn d, { s with env := { s.env with drawn := s.env.drawn + 1 } })

/-- `PinRead(p)` (R65): the no-op pin gives its fixed bit and no event, a real pin a fresh answer. -/
def State.pinRead (p : PinId) (s : State) : Level × State :=
  if p = noPin then (s.params.noopRead, s)
  else
    let r := s.drawSdi
    (r.1, r.2.emit (.read p r.1))

/-- `Wait()` (R141), recorded only where the engine is the bit-bang one (R172). -/
def State.wait (timed : Bool) (s : State) : State := if timed then s.emit .half else s

/-- `NotifyAlive()` (R142), recorded only where the engine is the bit-bang one (R172). -/
def State.notifyAlive (timed : Bool) (s : State) : State := if timed then s.emit .alive else s

/-- `MemRead(addr, 1)` (R61): none where the byte is marked unwritten. -/
def State.memRead (a : Nat) (s : State) : Option Byte := Cells.read s.dbuf a

end Sys2Proof.Machine
end

