-- ==== Sys2Proof/Machine/Operands.lean ====
section
/-!
DEFINITION. Operand forms: which bit a step sends (R67), where a sampled bit lands (R148), which pins have a role
(R110), and the register views of the host (spec/10_state.md R22 to R38).
-/

namespace Sys2Proof.Machine

/-- The bit index of step `i` of a transfer of `n` bits (R67). -/
def bitIndex (o : BitOrder) (n i : Nat) : Nat :=
  match o with
  | .msbFirst => n - 1 - i
  | .lsbFirst => i

/-- `acc OR (zext_16(b) << k)` (R143). -/
def accumulate (acc : XferWord) (k : Nat) (b : Level) : XferWord := acc ||| ((BitVec.ofBool b).setWidth 16 <<< k)

/-- The chip-select level that deselects, `not CS_ACTIVE_LEVEL`. -/
def State.csIdle (s : State) : Level := !s.params.csActive

/-- The mode-select level meaning "data", `not DC_COMMAND_LEVEL` (R7). -/
def State.dcData (s : State) : Level := !s.params.dcCommand

/-- The real pins of a list. -/
def realPins (ps : List PinId) : List PinId := ps.filter (fun p => decide (p ≠ noPin))

/-- `busPins()` (spec/40_bus_manager.md). -/
def State.busPins (s : State) : List PinId := realPins [s.bus.clk, s.bus.sdo, s.bus.sdi]

/-- `csPins()`: the chip-select pins of the registered slots. -/
def State.csPins (s : State) : List PinId :=
  realPins (((List.finRange 16).filter (fun m => decide ((s.slot m).kind ≠ .null))).map (fun m => (s.slot m).cs))

/-- `dcPins(except)`: the mode-select pins of the slots other than `except`. -/
def State.dcPins (s : State) (except : Option SlotId) : List PinId :=
  realPins (((List.finRange 16).filter (fun m => decide (some m ≠ except))).map (fun m => (s.slot m).dc))

/-- Both lines are the same real pin. -/
def samePin (p q : PinId) : Bool := decide (p ≠ noPin) && decide (p = q)

/-- The PIN_ALIAS condition of SETUP (R112). -/
def State.setupAlias (clk sdo sdi : PinId) (s : State) : Bool :=
  samePin clk sdo || samePin clk sdi || samePin sdo sdi ||
    (realPins [clk, sdo, sdi]).any (fun p => decide (p ∈ s.dcPins none))

/-- The PIN_ALIAS condition of REGISTER (R118). -/
def State.registerAlias (cs : PinId) (s : State) : Bool :=
  decide (cs ≠ noPin) && (decide (cs ∈ s.busPins) || decide (cs ∈ s.csPins) || decide (cs ∈ s.dcPins none))

/-- The PIN_ALIAS condition of SET_DC (R127). -/
def State.dcAlias (d : SlotId) (dc : PinId) (s : State) : Bool :=
  decide (dc ≠ noPin) && (decide (dc ∈ s.busPins) || decide (dc ∈ s.csPins) || decide (dc ∈ s.dcPins (some d)))

/-- CSTATE's number (R23). -/
def CState.bits : CState → BitVec 2
  | .unconfigured => 0#2
  | .readySw => 1#2
  | .readyHw => 2#2
  | .failed => 3#2

/-- KIND's number (R35). -/
def Kind.bits : Kind → BitVec 2
  | .null => 0#2
  | .bitbang => 1#2
  | .hw => 2#2

/-- CPHA's bit (R34). -/
def phaseBit : ClockPhase → Bool
  | .leading => false
  | .trailing => true

/-- ORDER's bit (R34). -/
def orderBit : BitOrder → Bool
  | .msbFirst => false
  | .lsbFirst => true

/-- STATE as the host reads it (R23). -/
def State.stateWord (s : State) : RegWord := regField 0 s.cstate.bits

/-- RESULT as the host reads it (R25). -/
def State.resultWord (s : State) : RegWord := regField 0 s.result

/-- OWNER as the host reads it (R26). -/
def State.ownerWord (s : State) : RegWord :=
  match s.owner with
  | none => 0#32
  | some d => regField 0 (BitVec.ofNat 4 d.val) ||| regBit 4 true

/-- BUSPINS as the host reads it (R27). -/
def State.busPinsWord (s : State) : RegWord :=
  regField 0 s.bus.clk ||| regField 8 s.bus.sdo ||| regField 16 s.bus.sdi ||| regBit 24 s.bus.hw

/-- BUSIFACE as the host reads it (R28). -/
def State.busIfaceWord (s : State) : RegWord := regField 0 s.bus.iface

/-- IN_TXN of a slot (R38). -/
def State.inTxn (s : State) (d : SlotId) : Bool := decide (s.owner = some d)

/-- SLOTn_CFG as the host reads it (R34). -/
def State.slotCfgWord (s : State) (d : SlotId) : RegWord :=
  let c := s.slot d
  regField 0 c.kind.bits ||| regBit 2 c.cpol ||| regBit 3 (phaseBit c.cpha) ||| regBit 4 (orderBit c.order) |||
    regBit 5 (s.inTxn d) ||| regField 8 c.cs ||| regField 16 c.dc

/-- The slot a register number in 0x10 to 0x2F belongs to (R22). -/
def slotOfReg (r : BitVec 8) : SlotId := (((r - 0x10#8) >>> 1).setWidth 4).toFin

/-- The 32-bit value of register `r` (R22); a reserved number reads 0. -/
def State.regWord (s : State) (r : BitVec 8) : RegWord :=
  match r.toNat with
  | 0x00 => s.stateWord
  | 0x01 => s.status.word
  | 0x02 => s.resultWord
  | 0x03 => s.ownerWord
  | 0x04 => s.busPinsWord
  | 0x05 => s.busIfaceWord
  | n =>
    if 0x10 ≤ n ∧ n ≤ 0x2F then
      if n % 2 = 0 then s.slotCfgWord (slotOfReg r) else (s.slot (slotOfReg r)).rate
    else 0#32

end Sys2Proof.Machine
end

