-- ==== Sys2Proof/Machine/BusManager.lean ====
section
/-!
DEFINITION. The bus manager's commands (spec/40_bus_manager.md): SETUP, REGISTER, UNREGISTER, SET_DC, IS_READY.
-/

namespace Sys2Proof.Machine

/-- A command that ends with a report: `Report(code); pc <- pc + 1; return`. -/
def reportAndComplete (c : ErrCode) (s : State) : Result := complete (s.report c)

/-- The bus descriptor and the controller state after a SETUP that succeeds (R29, R112). -/
def State.setBus (clk sdo sdi : PinId) (hw : Bool) (iface : BitVec 8) (c : CState) (s : State) : State :=
  { s with bus := { clk := clk, sdo := sdo, sdi := sdi, hw := hw, iface := iface }, cstate := c }

/-- A setup-fatal report: `Report(code); CSTATE <- FAILED; pc <- pc + 1` (R112, R114). -/
def setupFails (c : ErrCode) (s : State) : Result := complete { s.report c with cstate := .failed }

/-- The hardware path of SETUP (R112): ask the factory, drive no pin. -/
def setupHw (clk sdo sdi : PinId) (iface : BitVec 8) (s : State) : Result :=
  let r := s.drawFactory iface clk sdo sdi
  let s' := r.2.emit (.factory r.1)
  match r.1 with
  | .fail => setupFails .setupHwAlloc s'
  | .ok => complete (s'.setBus clk sdo sdi true iface .readyHw)

/-- The software path of SETUP (R112, R113): clock out and high, data-out out, data-in in. -/
def setupSw (clk sdo sdi : PinId) (iface : BitVec 8) (s : State) : Result :=
  let s := s.setBus clk sdo sdi false iface .readySw
  let s := (s.pinSetup clk .output).pinWrite clk true
  complete ((s.pinSetup sdo .output).pinSetup sdi .input)

/-- SETUP (R112). -/
def execSetup (clk sdo sdi : PinId) (hw : Bool) (iface : BitVec 8) (s : State) : Result :=
  if s.cstate ≠ .unconfigured then reportAndComplete .notReady s
  else if clk = noPin then setupFails .setupNoClk s
  else if s.setupAlias clk sdo sdi then raise .pinAlias s
  else if hw then setupHw clk sdo sdi iface s
  else setupSw clk sdo sdi iface s

/-- The delegate kind a ready bus produces (R116), none when there is no bus to ask. -/
def CState.delegate : CState → Option Kind
  | .readySw => some .bitbang
  | .readyHw => some .hw
  | .unconfigured => none
  | .failed => none

/-- REGISTER (R118). -/
def execRegister (d : SlotId) (cpol : Level) (cpha : ClockPhase) (order : BitOrder) (cs : PinId) (rate : BitVec 32)
    (s : State) : Result :=
  match s.cstate.delegate with
  | none => reportAndComplete .notReady s
  | some k =>
    if (s.slot d).kind ≠ .null then reportAndComplete .regDuplicate s
    else if s.registerAlias cs then raise .pinAlias s
    else
      let s := s.setSlot d { s.slot d with kind := k, cpol := cpol, cpha := cpha, order := order, cs := cs, rate := rate }
      complete ((s.pinSetup cs .output).pinWrite cs s.csIdle)

/-- UNREGISTER (R124). DC is kept (R39) and no pin is touched. -/
def execUnregister (d : SlotId) (s : State) : Result :=
  if (s.slot d).kind = .null then reportAndComplete .unregUnknown s
  else if s.owner = some d then raise .unregisterInTxn s
  else complete (s.setSlot d { Slot.reset with dc := (s.slot d).dc })

/-- SET_DC (R127): bind the mode-select pin and drive it to "data" at once (R126). -/
def execSetDc (d : SlotId) (dc : PinId) (s : State) : Result :=
  if s.dcAlias d dc then raise .pinAlias s
  else
    let s := s.setSlot d { s.slot d with dc := dc }
    complete ((s.pinSetup dc .output).pinWrite dc s.dcData)

/-- IS_READY (R130): 1 on a NULL or BITBANG slot, the backend's answer on a HW slot. -/
def execIsReady (d : SlotId) (s : State) : Result :=
  match (s.slot d).kind with
  | .null => complete (s.setResult 1#16)
  | .bitbang => complete (s.setResult 1#16)
  | .hw =>
    let r := s.drawReady d
    complete (r.2.setResult ((BitVec.ofBool r.1).setWidth 16))

end Sys2Proof.Machine
end

