-- ==== Sys2Proof/Machine/Delegates.lean ====
section
/-!
DEFINITION. Delegate dispatch, the null forms and the transaction bracket (spec/42_delegates_transactions.md):
BEGIN and END.
-/

namespace Sys2Proof.Machine

/-- `NullTransfer(d)` (R174): report code 5 and RESULT 0 (R175). -/
def State.nullTransfer (s : State) : State := (s.report .uninit).setResult 0#16

/-- `NullWrite(d)`, `NullBegin(d)`, `NullEnd(d)` (R174): report code 5. -/
def State.nullReport (s : State) : State := s.report .uninit

/-- `RequireOwner(d)` (R177). -/
def requireOwner (d : SlotId) (s : State) : Result :=
  if s.owner = some d then .next s else raise .transferOutsideTxn s

/-- The bracket's start on a BITBANG or HW slot (R173, R180). -/
def takeBus (d : SlotId) (s : State) : Result :=
  match s.owner with
  | some o => if o = d then raise .nestedBegin s else raise .busBusy s
  | none => .next ({ s with owner := some d }.pinWrite (s.slot d).cs s.params.csActive)

/-- The bracket's end on a BITBANG or HW slot (R173, R181, R184). -/
def State.releaseBus (d : SlotId) (s : State) : State :=
  let s := s.pinWrite (s.slot d).cs s.csIdle
  if s.owner = some d then { s with owner := none } else s

/-- `BeginStep(d)`: the case statement of BEGIN (R180, R199). -/
def beginStep (d : SlotId) (s : State) : Result :=
  match (s.slot d).kind with
  | .null => .next s.nullReport
  | .bitbang => takeBus d s
  | .hw => takeBus d s

/-- `EndStep(d)`: the case statement of END (R184, R199). -/
def endStep (d : SlotId) (s : State) : Result :=
  match (s.slot d).kind with
  | .null => .next s.nullReport
  | .bitbang => .next (s.releaseBus d)
  | .hw => .next (s.releaseBus d)

/-- BEGIN (R180). -/
def execBegin (d : SlotId) (s : State) : Result := andThen (beginStep d s) complete

/-- END (R184). -/
def execEnd (d : SlotId) (s : State) : Result := andThen (endStep d s) complete

end Sys2Proof.Machine
end

