-- ==== Sys2Proof/Machine/BitBang.lean ====
section
/-!
DEFINITION. The mode engine and the transfer commands (spec/41_bitbang.md): TRANSFER, WRITE, TRANSFER8. The
hardware-backed engine is the same engine without waits and notification (R172).
-/

namespace Sys2Proof.Machine

/-- One bit of the leading-edge phase (R143, R144): data-out, wait, active edge, sample, wait, idle edge. -/
def leadingBit (timed : Bool) (c : Slot) (v : XferWord) (k : Nat) (acc : XferWord) (s : State) : XferWord × State :=
  let s := (s.pinWrite s.bus.sdo (v.getLsbD k)).wait timed
  let r := (s.pinWrite s.bus.clk (!c.cpol)).pinRead s.bus.sdi
  let s := r.2.wait timed
  (accumulate acc k r.1, s.pinWrite s.bus.clk c.cpol)

/-- One bit of the trailing-edge phase (R143, R145): wait, active edge, data-out, wait, sample, idle edge. -/
def trailingBit (timed : Bool) (c : Slot) (v : XferWord) (k : Nat) (acc : XferWord) (s : State) : XferWord × State :=
  let s := s.wait timed
  let s := s.pinWrite s.bus.clk (!c.cpol)
  let s := (s.pinWrite s.bus.sdo (v.getLsbD k)).wait timed
  let r := s.pinRead s.bus.sdi
  (accumulate acc k r.1, r.2.pinWrite r.2.bus.clk c.cpol)

/-- One bit of the transfer, in the slot's phase; `k` is the bit index sent and stored (R143). -/
def engineBit (timed : Bool) (c : Slot) (v : XferWord) (k : Nat) (acc : XferWord) (s : State) : XferWord × State :=
  match c.cpha with
  | .leading => leadingBit timed c v k acc s
  | .trailing => trailingBit timed c v k acc s

/-- The last `m` of the `n` steps of the loop of R143: step `i = n - m` first. -/
def engineLoop (timed : Bool) (c : Slot) (v : XferWord) (n : Nat) : Nat → XferWord → State → XferWord × State
  | 0, acc, s => (acc, s)
  | m + 1, acc, s =>
    let r := engineBit timed c v (bitIndex c.order n (n - (m + 1))) acc s
    engineLoop timed c v n m r.1 r.2

/-- The engine of R143: clock to idle (R147), `n` bits, notification. -/
def engine (timed : Bool) (d : SlotId) (v : XferWord) (n : Nat) (s : State) : XferWord × State :=
  let c := s.slot d
  let r := engineLoop timed c v n n 0#16 (s.pinWrite s.bus.clk c.cpol)
  (r.1, r.2.notifyAlive timed)

/-- `BBEngine(d, v, n)` (R143). -/
def bbEngine (d : SlotId) (v : XferWord) (n : Nat) (s : State) : XferWord × State := engine true d v n s

/-- `HWEngine(d, v, n)` (R172). -/
def hwEngine (d : SlotId) (v : XferWord) (n : Nat) (s : State) : XferWord × State := engine false d v n s

/-- The state after an engine run whose value `f` turns into RESULT. -/
def storeResult (f : XferWord → XferWord) (r : XferWord × State) : State := r.2.setResult (f r.1)

/-- `WriteStep`: WRITE without its `pc` update (R153, R199). -/
def writeStep (d : SlotId) (v : XferWord) (n : Nat) (s : State) : Result :=
  match (s.slot d).kind with
  | .null => .next s.nullReport
  | .bitbang => andThen (requireOwner d s) (fun s => .next (bbEngine d v n s).2)
  | .hw => andThen (requireOwner d s) (fun s => .next (hwEngine d v n s).2)

/-- TRANSFER (R150). -/
def execTransfer (d : SlotId) (v : XferWord) (n : Nat) (s : State) : Result :=
  match (s.slot d).kind with
  | .null => complete s.nullTransfer
  | .bitbang => andThen (requireOwner d s) (fun s => complete (storeResult id (bbEngine d v n s)))
  | .hw => andThen (requireOwner d s) (fun s => complete (storeResult id (hwEngine d v n s)))

/-- WRITE (R153): TRANSFER with the value discarded (R152). -/
def execWrite (d : SlotId) (v : XferWord) (n : Nat) (s : State) : Result := andThen (writeStep d v n s) complete

/-- Bits [7:0] of an engine's value, zero-extended (R155, R156). -/
def lowByte (v : XferWord) : XferWord := (v.setWidth 8).setWidth 16

/-- TRANSFER8 (R156): 8 bits of `zext_16(BYTE)`, RESULT is the low byte. -/
def execTransfer8 (d : SlotId) (b : Byte) (s : State) : Result :=
  match (s.slot d).kind with
  | .null => complete s.nullTransfer
  | .bitbang => andThen (requireOwner d s) (fun s => complete (storeResult lowByte (bbEngine d (b.setWidth 16) 8 s)))
  | .hw => andThen (requireOwner d s) (fun s => complete (storeResult lowByte (hwEngine d (b.setWidth 16) 8 s)))

end Sys2Proof.Machine
end

