-- ==== Sys2Proof/Machine/Framing.lean ====
section
/-!
DEFINITION. The command/data framing mux (spec/43_framing.md): WRITE_CMD_DATA.
-/

namespace Sys2Proof.Machine

/-- `WriteStep(d, b)` of one byte (R199): an 8-bit write of `zext_16(b)`. -/
def writeByte (d : SlotId) (b : Byte) (s : State) : Result := writeStep d (b.setWidth 16) 8 s

/-- Drive the slot's mode-select pin (R204): SPIBB does it itself, whatever the slot's kind. -/
def State.modeSelect (d : SlotId) (b : Level) (s : State) : State := s.pinWrite (s.slot d).dc b

/-- DOC step 2 (R200): the command byte, if present. -/
def sendCommand (d : SlotId) (cp : Bool) (cmd : Byte) (s : State) : Result :=
  if cp then writeByte d cmd (s.modeSelect d s.params.dcCommand) else .next s

/-- The byte loop of DOC step 3 (R200): `n` bytes of the data buffer from address `a` on. -/
def sendBytes (d : SlotId) : Nat → Nat → State → Result
  | _, 0, s => .next s
  | a, n + 1, s =>
    match s.memRead a with
    | none => raise .unwrittenDbuf s
    | some b => andThen (writeByte d b s) (sendBytes d (a + 1) n)

/-- DOC step 3 (R200): mode-select to data and the data bytes, if there are any. -/
def sendData (d : SlotId) (len addr : BitVec 16) (s : State) : Result :=
  if len.toNat = 0 then .next s else sendBytes d addr.toNat len.toNat (s.modeSelect d s.dcData)

/-- The bytes `ADDR` to `ADDR + LEN - 1` do not all lie in DBUF (R70, R201). -/
def rangeLeavesDbuf (len addr : BitVec 16) : Bool := decide (Config.dbufSize < addr.toNat + len.toNat)

/-- The frame of R200: bracket, command byte, data bytes, and mode-select back to data (R202, R203). -/
def sendFrame (d : SlotId) (cp : Bool) (cmd : Byte) (len addr : BitVec 16) (s : State) : Result :=
  andThen (andThen (andThen (beginStep d s) (sendCommand d cp cmd)) (sendData d len addr)) fun s =>
    andThen (endStep d s) fun s => .next (s.modeSelect d s.dcData)

/-- WRITE_CMD_DATA (R200). -/
def execWriteCmdData (d : SlotId) (cp : Bool) (cmd : Byte) (len addr : BitVec 16) (s : State) : Result :=
  if rangeLeavesDbuf len addr then complete (s.report .range)
  else andThen (sendFrame d cp cmd len addr s) complete

end Sys2Proof.Machine
end

