-- ==== Sys2Proof/Machine/Dispatch.lean ====
section
/-!
DEFINITION. One arm per command, each one call of its meaning.
-/

namespace Sys2Proof.Machine

/-- What a command does, after its start (R231). -/
def exec (i : Instr) (s : State) : Host.Outcome State Fault Refusal :=
  match i with
  | .setup clk sdo sdi hw iface => Sys2Proof.Machine.execSetup clk sdo sdi hw iface s
  | .register d cpol cpha order cs rate => Sys2Proof.Machine.execRegister d cpol cpha order cs rate s
  | .unregister d => Sys2Proof.Machine.execUnregister d s
  | .setDc d dc => Sys2Proof.Machine.execSetDc d dc s
  | .beginTxn d => Sys2Proof.Machine.execBegin d s
  | .endTxn d => Sys2Proof.Machine.execEnd d s
  | .transfer d value nbits => Sys2Proof.Machine.execTransfer d value nbits s
  | .write d value nbits => Sys2Proof.Machine.execWrite d value nbits s
  | .transfer8 d byte => Sys2Proof.Machine.execTransfer8 d byte s
  | .isReady d => Sys2Proof.Machine.execIsReady d s
  | .writeCmdData d cp cmd len addr => Sys2Proof.Machine.execWriteCmdData d cp cmd len addr s

end Sys2Proof.Machine
end

