-- ==== Sys2Proof/Machine/HostPort.lean ====
section
/-!
DEFINITION. The host port (spec/44_host_port.md), the illegal command (R98) and reset (R260): what one step serves.
-/

namespace Sys2Proof.Machine

/-- The illegal command (R98): code 7, and only `pc` moves on. -/
def execIllegal (s : State) : Result := complete (s.report .illegal)

/-- One command word (R223): clear LAST_ERR (R231), decode (R100), run to completion. -/
def runCommand (w : Command) (s : State) : Result :=
  match decode w with
  | .ok i => exec i s.startCommand
  | .error _ => execIllegal s.startCommand

/-- Register read (R220): it changes nothing; the host gets the value. -/
def State.hostRead (r : BitVec 8) (s : State) : State :=
  { s with env := { s.env with received := s.env.received ++ [(r, s.regWord r)] } }

/-- Register write (R221): a clear mask for STATUS, no effect on any other number. -/
def State.hostWrite (r : BitVec 8) (m : RegWord) (s : State) : State :=
  if r = 0x01#8 then { s with status := s.status.clearSticky m } else s

/-- Data-buffer write (R222). -/
def State.hostWriteBuf (a : BitVec 16) (b : Byte) (s : State) : State := { s with dbuf := s.dbuf.write a b }

/-- Reset (R260): every piece of state takes its value of R42; the parameters and the environment are no state of SPIBB
and stay. -/
def State.applyReset (s : State) : State := { State.reset with params := s.params, env := s.env }

/-- One action of the host (R223 to R225, R260). -/
def runAction (a : HostAction) (s : State) : Result :=
  match a with
  | .command w => runCommand w s
  | .readReg r => .next (s.hostRead r)
  | .writeReg r m => .next (s.hostWrite r m)
  | .writeBuf a b => .next (s.hostWriteBuf a b)
  | .reset => .next s.applyReset

/-- What a machine does next: nothing after a fault (R32, R236), the host's next action, or, with none to come, it is
idle with all state held (R248). -/
def serve (s : State) : Result :=
  match s.fault with
  | some k => .fault (Fault.of k s)
  | none =>
    match s.env.actions with
    | [] => .next s
    | a :: rest => runAction a { s with env := { s.env with actions := rest } }

end Sys2Proof.Machine
end

