-- ==== Sys2Proof/Machine/Step.lean ====
section
/-!
DEFINITION. One step of the machine, and the placing of a command where the next step takes it from.
-/

namespace Sys2Proof.Machine

/-- One step (R15): the host's next action. -/
def step (s : State) : Host.Outcome State Fault Refusal := serve s

/-- `s` with the command word `w` as the host's next action; the bits above `nbits` are 0. -/
def State.withFetchWord (s : State) (nbits w : Nat) : State :=
  { s with env := { s.env with actions := .command ((BitVec.ofNat nbits w).setWidth 64) :: s.env.actions } }

end Sys2Proof.Machine
end

