-- ==== Sys2Proof/Safety.lean ====
section
/-!
DEFINITION. The terms claims use: the answers the environment will give, the events and levels of a transfer unit and
of a frame written as formulas (R143, R172, R200), and the invariants of the machine.
-/

namespace Sys2Proof.Machine

/-! ### Outcomes -/

/-- The next state, if there is one. -/
def nextOf : Result → Option State
  | .next s => some s
  | .fault _ => none
  | .refused _ => none

/-- The fault, if the step ends in one. -/
def faultOf : Result → Option Fault
  | .next _ => none
  | .fault f => some f
  | .refused _ => none

/-- A command that did nothing but report code `c`: `Report(c); pc <- pc + 1` (R232). -/
def reported (c : ErrCode) (s : State) : State :=
  { s with pc := s.pc + 1, status := s.status.report c, trace := s.trace ++ [.err c] }

/-- The fault of kind `k` raised before the command had any effect: the faulted state is `s` with the mark set (R236). -/
def faultAt (k : FaultKind) (s : State) : Result := .fault (Fault.of k { s with fault := some k })

/-! ### The environment's answers (R41, R65) -/

/-- The answer the `j`-th draw of `SDI_DRAW` from now will give. -/
def Env.sdiAt (e : Env) (j : Nat) : Level :=
  match e.sdi[j]? with
  | some b => b
  | none => Config.sdiDraw (e.drawn + (j - e.sdi.length))

/-- The environment after `j` draws of `SDI_DRAW`. -/
def Env.afterSdi (e : Env) (j : Nat) : Env :=
  { e with sdi := e.sdi.drop j, drawn := e.drawn + (j - e.sdi.length) }

/-- What the `i`-th sample of the data-in line from now will be (R65, R66). -/
def State.sample (s : State) (i : Nat) : Level :=
  if s.bus.sdi = noPin then s.params.noopRead else s.env.sdiAt i

/-- The environment after `j` samples of the data-in line. -/
def State.envAfterSamples (s : State) (j : Nat) : Env := if s.bus.sdi = noPin then s.env else s.env.afterSdi j

/-- The answer the next request to the hardware bus factory will get (R112). -/
def State.factoryAnswer (s : State) (iface : BitVec 8) (clk sdo sdi : PinId) : FactoryAnswer :=
  match s.env.factory with
  | r :: _ => r
  | [] => Config.hwFactory s.env.drawn iface clk sdo sdi s.params.parPins

/-- The environment after one request to the factory. -/
def Env.afterFactory (e : Env) : Env :=
  match e.factory with
  | _ :: rest => { e with factory := rest }
  | [] => { e with drawn := e.drawn + 1 }

/-- The answer the next readiness question for slot `d` will get (R130). -/
def State.readyAnswer (s : State) (d : SlotId) : Bool :=
  match s.env.ready with
  | b :: _ => b
  | [] => Config.hwReady s.env.drawn d

/-- The environment after one readiness question. -/
def Env.afterReady (e : Env) : Env :=
  match e.ready with
  | _ :: rest => { e with ready := rest }
  | [] => { e with drawn := e.drawn + 1 }

/-! ### Events as formulas -/

/-- The event of a pin write; none for the no-op pin (R64). -/
def writeEvent (p : PinId) (b : Level) : List Event := if p = noPin then [] else [.write p b]

/-- The event of a pin read; none for the no-op pin (R65). -/
def readEvent (p : PinId) (b : Level) : List Event := if p = noPin then [] else [.read p b]

/-- The event of a pin setup; none for the no-op pin (R63). -/
def setupEvent (p : PinId) (d : Dir) : List Event := if p = noPin then [] else [.setupPin p d]

/-- An event of the bit-bang engine only (R172). -/
def timedEvent (timed : Bool) (e : Event) : List Event := if timed then [e] else []

/-- The events of one bit: index `k` of `v` is sent, `a` is sampled (R143 to R145). -/
def bitEvents (timed : Bool) (c : Slot) (b : Bus) (v : XferWord) (k : Nat) (a : Level) : List Event :=
  match c.cpha with
  | .leading =>
    writeEvent b.sdo (v.getLsbD k) ++ timedEvent timed .half ++ writeEvent b.clk (!c.cpol) ++ readEvent b.sdi a ++
      timedEvent timed .half ++ writeEvent b.clk c.cpol
  | .trailing =>
    timedEvent timed .half ++ writeEvent b.clk (!c.cpol) ++ writeEvent b.sdo (v.getLsbD k) ++ timedEvent timed .half ++
      readEvent b.sdi a ++ writeEvent b.clk c.cpol

/-- The events of a transfer unit of `n` bits, `ans i` being sampled at step `i` (R143, R172). -/
def unitEvents (timed : Bool) (c : Slot) (b : Bus) (v : XferWord) (n : Nat) (ans : Nat → Level) : List Event :=
  writeEvent b.clk c.cpol ++
    (List.range n).flatMap (fun i => bitEvents timed c b v (bitIndex c.order n i) (ans i)) ++ timedEvent timed .alive

/-- The events of a sequence of 8-bit units (R199). -/
def byteEvents (timed : Bool) (c : Slot) (b : Bus) : List Byte → (Nat → Level) → List Event
  | [], _ => []
  | x :: xs, ans => unitEvents timed c b (x.setWidth 16) 8 ans ++ byteEvents timed c b xs (fun i => ans (i + 8))

/-- The slot's engine records waits and notifications: its kind is BITBANG (R170, R172). -/
def Slot.timed (c : Slot) : Bool := decide (c.kind = .bitbang)

/-- The event takes time or notifies: the ones a hardware-backed engine does not record (R172). -/
def Event.isTiming : Event → Bool
  | .half => true
  | .alive => true
  | _ => false

/-- The event is a sample of an input pin (R65). -/
def Event.isRead : Event → Bool
  | .read _ _ => true
  | _ => false

/-- The bytes of the data buffer at addresses `a` to `a + n - 1` (R68); an unwritten one counts as 0 here and is excluded
where it matters. -/
def bufBytes (m : Memory) (a n : Nat) : List Byte := (List.range n).map (fun k => (Cells.read m (a + k)).getD 0#8)

/-- Every byte at addresses `a` to `a + n - 1` was written by the host (R62). -/
def bufWritten (m : Memory) (a n : Nat) : Prop := ∀ k, k < n → (Cells.read m (a + k)).isSome = true

/-- The events of a frame on a registered slot before its end, `data` being the data bytes sent and `select` saying that
mode-select went to data (R200). -/
def frameHead (s : State) (d : SlotId) (cp : Bool) (cmd : Byte) (select : Bool) (data : List Byte) : List Event :=
  let c := s.slot d
  writeEvent c.cs s.params.csActive ++
    (if cp then writeEvent c.dc s.params.dcCommand ++ byteEvents c.timed c s.bus [cmd] s.sample else []) ++
    (if select then
      writeEvent c.dc s.dcData ++ byteEvents c.timed c s.bus data (fun i => s.sample (i + if cp then 8 else 0))
    else [])

/-- The events of a whole frame on a registered slot (R200, R202, R203). -/
def frameEvents (s : State) (d : SlotId) (cp : Bool) (cmd : Byte) (data : List Byte) : List Event :=
  frameHead s d cp cmd (!data.isEmpty) data ++ writeEvent (s.slot d).cs s.csIdle ++ writeEvent (s.slot d).dc s.dcData

/-- The events of a frame on a NULL slot before its end, `n` data bytes being read and `select` saying that mode-select
went to data (R205). -/
def nullFrameHead (s : State) (d : SlotId) (cp select : Bool) (n : Nat) : List Event :=
  let dc := (s.slot d).dc
  [.err .uninit] ++ (if cp then writeEvent dc s.params.dcCommand ++ [.err .uninit] else []) ++
    (if select then writeEvent dc s.dcData ++ List.replicate n (.err .uninit) else [])

/-- The events of a whole frame on a NULL slot that sends `n` data bytes (R205). -/
def nullFrameEvents (s : State) (d : SlotId) (cp : Bool) (n : Nat) : List Event :=
  nullFrameHead s d cp (decide (n ≠ 0)) n ++ [.err .uninit] ++ writeEvent (s.slot d).dc s.dcData

/-! ### What a list of events leaves behind -/

/-- The level of pin `q` after the events, if it was `o` before (R31, R64). -/
def levelAfter (q : PinId) : List Event → Option Level → Option Level
  | [], o => o
  | .write p b :: es, o => levelAfter q es (if p = q then some b else o)
  | _ :: es, o => levelAfter q es o

/-- The direction of pin `q` after the events, if it was `o` before (R31, R63). -/
def dirAfter (q : PinId) : List Event → Option Dir → Option Dir
  | [], o => o
  | .setupPin p d :: es, o => dirAfter q es (if p = q then some d else o)
  | _ :: es, o => dirAfter q es o

/-- The last error code among the events, if there is one (R24). -/
def lastReport : List Event → Option ErrCode → Option ErrCode
  | [], o => o
  | .err c :: es, _ => lastReport es (some c)
  | _ :: es, o => lastReport es o

/-- The level of pin `q` as the machine records it; none is X (R31). -/
def State.level (s : State) (q : PinId) : Option Level := Cells.read s.lvl q.toNat

/-- The direction of pin `q` as the machine records it; none is UNSET (R31). -/
def State.direction (s : State) (q : PinId) : Option Dir := Cells.read s.dir q.toNat

/-- The byte at address `a` of the data buffer as the machine reads it; none is unwritten (R61). -/
def State.byteAt (s : State) (a : Nat) : Option Byte := Cells.read s.dbuf a

/-- `t` is `s` with the events `es` recorded: they end the trace and give every pin its level and direction. -/
structure Records (s t : State) (es : List Event) : Prop where
  /-- The events end the trace, in order (R30). -/
  trace : t.trace = s.trace ++ es
  /-- Every pin has the level the events last drove (R31). -/
  level : ∀ q, t.level q = levelAfter q es (s.level q)
  /-- Every pin has the direction the events last set (R31). -/
  direction : ∀ q, t.direction q = dirAfter q es (s.direction q)

/-- What TRANSFER, WRITE and TRANSFER8 of `n` bits of `v` leave besides RESULT on a registered slot that holds the bus. -/
structure UnitDone (s : State) (d : SlotId) (v : XferWord) (n : Nat) (t : State) : Prop where
  /-- The events of the unit are recorded (R143, R172). -/
  records : Records s t (unitEvents (s.slot d).timed (s.slot d) s.bus v n s.sample)
  /-- `pc` is one further (R21), one answer was drawn per sample of a real data-in pin (R65), and nothing else changes but
  the trace, the levels and RESULT. -/
  frame : t = { s with
    pc := s.pc + 1, env := s.envAfterSamples n, trace := t.trace, lvl := t.lvl, result := t.result }

/-- The received value (R148): index `k` below `n` holds the bit sampled at the step that sent index `k`, the rest are 0. -/
def receivedBit (s : State) (d : SlotId) (n k : Nat) : Level :=
  decide (k < n) && s.sample (bitIndex (s.slot d).order n k)

/-! ### Invariants -/

/-- R37: (1) BITBANG slots only on a software bus, (2) HW slots only on a hardware-backed one, (3) the owner is
registered, (4) no two registered slots share a chip-select pin. -/
structure DelegateInv (s : State) : Prop where
  /-- R37 (1). -/
  bitbang : ∀ d, (s.slot d).kind = .bitbang → s.cstate = .readySw
  /-- R37 (2). -/
  hw : ∀ d, (s.slot d).kind = .hw → s.cstate = .readyHw
  /-- R37 (3). -/
  owner : ∀ d, s.owner = some d → (s.slot d).kind ≠ .null
  /-- R37 (4). -/
  cs : ∀ d e, d ≠ e → (s.slot d).kind ≠ .null → (s.slot e).kind ≠ .null → (s.slot d).cs = (s.slot e).cs →
    (s.slot d).cs = noPin

/-- R34, R36: RATE is 0 exactly when a slot is NULL, and a NULL slot holds its reset configuration. -/
structure SlotInv (s : State) : Prop where
  /-- RATE is 0 exactly when KIND = NULL (R36). -/
  rate : ∀ d, (s.slot d).rate = 0#32 ↔ (s.slot d).kind = .null
  /-- CPOL, CPHA, ORDER and CS hold their reset value while KIND = NULL (R34). -/
  idle : ∀ d, (s.slot d).kind = .null → s.slot d = { Slot.reset with dc := (s.slot d).dc }

/-- R29: the descriptor is at its reset value until a SETUP succeeds, and then has a clock pin and the flag of its bus. -/
structure BusInv (s : State) : Prop where
  /-- Before a SETUP that succeeds (R29). -/
  unset : s.cstate = .unconfigured ∨ s.cstate = .failed → s.bus = Bus.reset
  /-- A software bus: a clock pin, HW = 0 (R112). -/
  sw : s.cstate = .readySw → s.bus.clk ≠ noPin ∧ s.bus.hw = false
  /-- A hardware-backed bus: a clock pin, HW = 1 (R112). -/
  hw : s.cstate = .readyHw → s.bus.clk ≠ noPin ∧ s.bus.hw = true

/-- Two lines do not share a real pin. -/
def apart (p q : PinId) : Prop := p = q → p = noPin

/-- A pin the bus manager may take for SETUP: no two of the lines share it and it is no slot's mode-select pin (R112). -/
def busPinsFree (s : State) (clk sdo sdi : PinId) : Prop :=
  apart clk sdo ∧ apart clk sdi ∧ apart sdo sdi ∧
    ∀ m, apart clk (s.slot m).dc ∧ apart sdo (s.slot m).dc ∧ apart sdi (s.slot m).dc

/-- A pin without a role on the bus or as a registered chip-select (R118, R127). -/
def offBusAndCs (s : State) (p : PinId) : Prop :=
  apart p s.bus.clk ∧ apart p s.bus.sdo ∧ apart p s.bus.sdi ∧ ∀ m, (s.slot m).kind ≠ .null → apart p (s.slot m).cs

/-- R110: no pin has two roles among the bus lines, the registered chip-selects and the mode-select lines. -/
structure PinRoles (s : State) : Prop where
  /-- Two of CLK, SDO, SDI. -/
  bus : apart s.bus.clk s.bus.sdo ∧ apart s.bus.clk s.bus.sdi ∧ apart s.bus.sdo s.bus.sdi
  /-- A bus pin and a CS pin. -/
  busCs : ∀ d, (s.slot d).kind ≠ .null →
    apart (s.slot d).cs s.bus.clk ∧ apart (s.slot d).cs s.bus.sdo ∧ apart (s.slot d).cs s.bus.sdi
  /-- A bus pin and a DC pin. -/
  busDc : ∀ d, apart (s.slot d).dc s.bus.clk ∧ apart (s.slot d).dc s.bus.sdo ∧ apart (s.slot d).dc s.bus.sdi
  /-- Two registered CS pins. -/
  csCs : ∀ d e, d ≠ e → (s.slot d).kind ≠ .null → (s.slot e).kind ≠ .null → apart (s.slot d).cs (s.slot e).cs
  /-- A CS and a DC pin. -/
  csDc : ∀ d e, (s.slot d).kind ≠ .null → apart (s.slot d).cs (s.slot e).dc
  /-- Two DC pins. -/
  dcDc : ∀ d e, d ≠ e → apart (s.slot d).dc (s.slot e).dc

/-- R178: between commands the chip-select pin of a registered slot is at the active level exactly when the slot holds
the bus. -/
def ChipSelectInv (s : State) : Prop :=
  ∀ d, (s.slot d).kind ≠ .null → (s.slot d).cs ≠ noPin →
    s.level (s.slot d).cs = some (if s.owner = some d then s.params.csActive else s.csIdle)

/-- R203: between commands every bound mode-select pin is at the data level. -/
def ModeSelectInv (s : State) : Prop := ∀ d, (s.slot d).dc ≠ noPin → s.level (s.slot d).dc = some s.dcData

/-- R31: the pin records are what the trace says. -/
structure TraceInv (s : State) : Prop where
  /-- The level a pin was last driven to; X if never. -/
  level : ∀ q, s.level q = levelAfter q s.trace none
  /-- The direction a pin was last set to; UNSET if never. -/
  direction : ∀ q, s.direction q = dirAfter q s.trace none

/-- The data buffer and the pin records are in their canonical form. -/
structure CellsInv (s : State) : Prop where
  /-- DBUF: addresses 0x0000 to 0xFFFF. -/
  dbuf : Memory.wf s.dbuf
  /-- Levels: pins 0x00 to 0xFE. -/
  lvl : Cells.wf Config.numPins s.lvl
  /-- Directions: pins 0x00 to 0xFE. -/
  dir : Cells.wf Config.numPins s.dir

end Sys2Proof.Machine
end

