-- ==== Sys2Proof/Certificates/Slice0/Obligations.lean ====
section
/-!
DEFINITION. The statements for the provers. Each docstring names the rules of spec/ it formalises.
-/

open Sys2Proof Sys2Proof.Machine

/-! ### Encoding -/

/-- R82 to R92, R100: decoding the word of a well-formed command gives the command, with every operand at every value.
-/
def Obligations.DecodeOfEncodeIsTheInstruction : Prop := ∀ i : Instr, i.wf = true → decode (encode i) = .ok i

/-- R97, R100: a word that decodes is the encoding of its command, which is well formed; so no accepted word has a
reserved bit set. -/
def Obligations.AcceptedWordIsItsEncoding : Prop := ∀ w i, decode w = .ok i → i.wf = true ∧ encode i = w

/-- R96, R100: a word is rejected for its opcode exactly when the opcode is 0x0 or 0xC to 0xF. -/
def Obligations.ReservedOpcodesAreIllegal : Prop :=
  ∀ w : Command, decode w = .error .reservedOpcode ↔
    w.extractLsb' 60 4 = 0x0#4 ∨ w.extractLsb' 60 4 = 0xC#4 ∨ w.extractLsb' 60 4 = 0xD#4 ∨
      w.extractLsb' 60 4 = 0xE#4 ∨ w.extractLsb' 60 4 = 0xF#4

/-- R89: NBITS = 0 or 17 to 31 and RATE = 0 are illegal although no reserved bit is set. -/
def Obligations.IllegalFieldValuesAreRejected : Prop :=
  ∀ (d : SlotId) (v : XferWord) (n : Nat) (cpol : Level) (cpha : ClockPhase) (order : BitOrder) (cs : PinId),
    (n = 0 ∨ (17 ≤ n ∧ n ≤ 31) →
      decode (encode (.transfer d v n)) = .error .nbitsRange ∧ decode (encode (.write d v n)) = .error .nbitsRange) ∧
    decode (encode (.register d cpol cpha order cs 0#32)) = .error .rateZero

/-- Words of spec/95_test_vectors.md section 2.1 and of the rules' worked examples, one per family at least. -/
def Obligations.SpecWordsDecodeAsWritten : Prop :=
  decode 0x10000A0B0C800200#64 = .ok (.setup 10#8 11#8 12#8 true 2#8) ∧
  decode 0x21E01600000F4240#64 = .ok (.register 1 true .trailing .lsbFirst 22#8 1000000#32) ∧
  decode 0x4000150000000000#64 = .ok (.setDc 0 21#8) ∧
  decode 0x5100000000000000#64 = .ok (.beginTxn 1) ∧
  decode 0x7010000000008001#64 = .ok (.transfer 0 0x8001#16 16) ∧
  decode 0x900000000000009F#64 = .ok (.transfer8 0 0x9F#8) ∧
  decode 0xB0802A0000020000#64 = .ok (.writeCmdData 0 true 0x2A#8 2#16 0#16) ∧
  decode 0x0000000000000000#64 = .error .reservedOpcode ∧
  decode 0x70080000000100A5#64 = .error .reservedBit

/-! ### A step -/

/-- R15, R223, R231: when the host's next action is a word that decodes to `i`, the step is `i` from the state with
the action taken and LAST_ERR cleared. The queue of host actions is the model's form (log entry 2). -/
def Obligations.StepRunsTheDecodedInstruction : Prop :=
  ∀ (s : State) (w : Command) (rest : List HostAction) (i : Instr),
    s.fault = none → s.env.actions = .command w :: rest → decode w = .ok i →
      step s = exec i { s with
        status := { s.status with lastErr := none }, env := { s.env with actions := rest } }

/-- R98: an illegal word gives E(7), LAST_ERR = 7, S_ILLEGAL, `pc` one further, and nothing else. The queue of host
actions is the model's form (log entry 2). -/
def Obligations.IllegalWordReportsSeven : Prop :=
  ∀ (s : State) (w : Command) (rest : List HostAction) (e : Illegal),
    s.fault = none → s.env.actions = .command w :: rest → decode w = .error e →
      step s = .next { s with
        pc := s.pc + 1
        status := { s.status with lastErr := some .illegal, sIllegal := true }
        trace := s.trace ++ [.err .illegal]
        env := { s.env with actions := rest } }

/-- R220: a register read changes no state; the host gets the value. The queue of host actions and the list of values
returned are the model's form (log entry 2). -/
def Obligations.RegisterReadChangesNothing : Prop :=
  ∀ (s : State) (r : BitVec 8) (rest : List HostAction),
    s.fault = none → s.env.actions = .readReg r :: rest →
      step s = .next { s with
        env := { s.env with actions := rest, received := s.env.received ++ [(r, s.regWord r)] } }

/-- R221: a write of mask m to STATUS gives STATUS AND NOT m[7:4]; a write of any other number has no effect. The
queue of host actions is the model's form (log entry 2). -/
def Obligations.StatusClearClearsTheMaskedBits : Prop :=
  ∀ (s : State) (r : BitVec 8) (m : RegWord) (rest : List HostAction),
    s.fault = none → s.env.actions = .writeReg r m :: rest →
      ∃ t, step s = .next t ∧
        t = { s with status := t.status, env := { s.env with actions := rest } } ∧
        (r = 0x01#8 → t.regWord 0x01#8 = s.regWord 0x01#8 &&& ~~~(m &&& 0xF0#32)) ∧
        (r ≠ 0x01#8 → t.status = s.status)

/-- R222, R61, R62: a buffer write makes its byte read back, leaves every other byte and mark, and changes nothing
else. The queue of host actions (log entry 2) and a byte held with its mark (log entry 10) are the model's form. -/
def Obligations.BufferWriteSetsItsByteOnly : Prop :=
  ∀ (s : State) (a : BitVec 16) (b : Byte) (rest : List HostAction),
    s.fault = none → s.env.actions = .writeBuf a b :: rest →
      ∃ t, step s = .next t ∧
        t = { s with dbuf := t.dbuf, env := { s.env with actions := rest } } ∧
        t.byteAt a.toNat = some b ∧ ∀ a', a' ≠ a.toNat → t.byteAt a' = s.byteAt a'

/-- R42, R260: reset gives every piece of state its value and drives no pin. That it keeps the parameters (log entry
3) and, of the environment, takes only its own action from the queue (log entry 2) is the model's form. -/
def Obligations.ResetGivesTheResetValues : Prop :=
  ∀ (s : State) (rest : List HostAction), s.fault = none → s.env.actions = .reset :: rest →
    ∃ t, step s = .next t ∧ t.pc = 0 ∧
      t.regWord 0x00#8 = 0#32 ∧ t.regWord 0x01#8 = 0#32 ∧ t.regWord 0x02#8 = 0#32 ∧ t.regWord 0x03#8 = 0#32 ∧
      t.regWord 0x04#8 = 0x00FFFFFF#32 ∧ t.regWord 0x05#8 = 0#32 ∧
      (∀ d : SlotId, t.slotCfgWord d = 0x00FFFF00#32 ∧ (t.slot d).rate = 0#32) ∧
      (∀ q, t.direction q = none ∧ t.level q = none) ∧ (∀ a, t.byteAt a = none) ∧ t.trace = [] ∧ t.fault = none ∧
      t.params = s.params ∧ t.env = { s.env with actions := rest }

/-- R32, R236: after a fault no further command runs: every step stops with the same fault and the same final state.
That the final state stands in the fault is the model's form (log entry 5). -/
def Obligations.FaultedMachineRunsNoCommand : Prop :=
  ∀ (s : State) (k : FaultKind), s.fault = some k → step s = .fault (Fault.of k s)

/-- R248: with no action to come the machine is idle with all state held. That such a step is the idle step is the
model's reading (log entry 6). -/
def Obligations.IdleMachineHoldsItsState : Prop :=
  ∀ s : State, s.fault = none → s.env.actions = [] → step s = .next s

/-! ### Registers as the host reads them -/

/-- R23 to R28: the fields of registers 0x00 to 0x05, with the bits above them 0; the numbers of CSTATE (R23) and of
the error codes (R230). -/
def Obligations.RegistersHoldTheirFields : Prop :=
  ∀ s : State,
    s.regWord 0x00#8 = (match s.cstate with
      | .unconfigured => 0#32 | .readySw => 1#32 | .readyHw => 2#32 | .failed => 3#32) ∧
    ((s.regWord 0x01#8).extractLsb' 0 4 = (match s.status.lastErr with
        | none => 0#4 | some .setupNoClk => 1#4 | some .setupHwAlloc => 2#4 | some .regDuplicate => 3#4
        | some .unregUnknown => 4#4 | some .uninit => 5#4 | some .notReady => 6#4 | some .illegal => 7#4
        | some .range => 8#4) ∧
      (s.regWord 0x01#8).getLsbD 4 = s.status.sFatal ∧
      (s.regWord 0x01#8).getLsbD 5 = s.status.sReg ∧ (s.regWord 0x01#8).getLsbD 6 = s.status.sUninit ∧
      (s.regWord 0x01#8).getLsbD 7 = s.status.sIllegal ∧ (s.regWord 0x01#8).extractLsb' 8 24 = 0#24) ∧
    s.regWord 0x02#8 = s.result.setWidth 32 ∧
    ((s.owner = none → s.regWord 0x03#8 = 0#32) ∧
      ∀ d, s.owner = some d → s.regWord 0x03#8 = BitVec.ofNat 32 (16 + d.val)) ∧
    ((s.regWord 0x04#8).extractLsb' 0 8 = s.bus.clk ∧ (s.regWord 0x04#8).extractLsb' 8 8 = s.bus.sdo ∧
      (s.regWord 0x04#8).extractLsb' 16 8 = s.bus.sdi ∧ (s.regWord 0x04#8).getLsbD 24 = s.bus.hw ∧
      (s.regWord 0x04#8).extractLsb' 25 7 = 0#7) ∧
    s.regWord 0x05#8 = s.bus.iface.setWidth 32

/-- R34, R36, R38: register 0x10 + 2n holds the configuration of slot n, register 0x11 + 2n its rate. -/
def Obligations.SlotRegistersHoldTheirSlot : Prop :=
  ∀ (s : State) (d : SlotId),
    let w := s.regWord (BitVec.ofNat 8 (0x10 + 2 * d.val))
    (w.extractLsb' 0 2 = (match (s.slot d).kind with | .null => 0#2 | .bitbang => 1#2 | .hw => 2#2) ∧
      w.getLsbD 2 = (s.slot d).cpol ∧ w.getLsbD 3 = decide ((s.slot d).cpha = .trailing) ∧
      w.getLsbD 4 = decide ((s.slot d).order = .lsbFirst) ∧ w.getLsbD 5 = decide (s.owner = some d) ∧
      w.extractLsb' 6 2 = 0#2 ∧ w.extractLsb' 8 8 = (s.slot d).cs ∧ w.extractLsb' 16 8 = (s.slot d).dc ∧
      w.extractLsb' 24 8 = 0#8) ∧
    s.regWord (BitVec.ofNat 8 (0x11 + 2 * d.val)) = (s.slot d).rate

/-- R22: the register numbers 0x06 to 0x0F and 0x30 to 0xFF read 0. -/
def Obligations.ReservedRegistersReadZero : Prop :=
  ∀ (s : State) (r : BitVec 8), (0x06 ≤ r.toNat ∧ r.toNat ≤ 0x0F) ∨ 0x30 ≤ r.toNat → s.regWord r = 0#32

/-- R230, R232: what a report sets in STATUS; it clears nothing. -/
def Obligations.ReportSetsCodeAndStickyBit : Prop :=
  ∀ (s : State) (c : ErrCode),
    s.report c = { s with
      status := { lastErr := some c
                  sFatal := s.status.sFatal || decide (c = .setupNoClk ∨ c = .setupHwAlloc)
                  sReg := s.status.sReg || decide (c = .regDuplicate ∨ c = .unregUnknown ∨ c = .notReady)
                  sUninit := s.status.sUninit || decide (c = .uninit)
                  sIllegal := s.status.sIllegal || decide (c = .illegal ∨ c = .range) }
      trace := s.trace ++ [.err c] }

/-! ### Bus manager -/

/-- R112: SETUP reports 6 unless unconfigured, then 1 without a clock pin, then faults on a shared pin; else it sets
up a software bus, or asks the factory for a hardware-backed one. Where the factory's answer comes from and what the
request leaves of the environment's answers is the model's form (log entry 1). -/
def Obligations.SetupSetsUpTheBusOnce : Prop :=
  ∀ (s : State) (clk sdo sdi : PinId) (hw : Bool) (iface : BitVec 8),
    (s.cstate ≠ .unconfigured → exec (.setup clk sdo sdi hw iface) s = .next (reported .notReady s)) ∧
    (s.cstate = .unconfigured → clk = noPin →
      exec (.setup clk sdo sdi hw iface) s = .next { reported .setupNoClk s with cstate := .failed }) ∧
    (s.cstate = .unconfigured → clk ≠ noPin → ¬ busPinsFree s clk sdo sdi →
      exec (.setup clk sdo sdi hw iface) s = faultAt .pinAlias s) ∧
    (s.cstate = .unconfigured → clk ≠ noPin → busPinsFree s clk sdo sdi →
      (∃ t, exec (.setup clk sdo sdi false iface) s = .next t ∧
        Records s t (setupEvent clk .output ++ writeEvent clk true ++ setupEvent sdo .output ++ setupEvent sdi .input) ∧
        t = { s with
          pc := s.pc + 1, cstate := .readySw, bus := { clk := clk, sdo := sdo, sdi := sdi, hw := false, iface := iface }
          trace := t.trace, lvl := t.lvl, dir := t.dir }) ∧
      (s.factoryAnswer iface clk sdo sdi = .ok → exec (.setup clk sdo sdi true iface) s = .next { s with
        pc := s.pc + 1, cstate := .readyHw, bus := { clk := clk, sdo := sdo, sdi := sdi, hw := true, iface := iface }
        trace := s.trace ++ [.factory .ok], env := s.env.afterFactory }) ∧
      (s.factoryAnswer iface clk sdo sdi = .fail → exec (.setup clk sdo sdi true iface) s = .next { s with
        pc := s.pc + 1, cstate := .failed, status := s.status.report .setupHwAlloc
        trace := s.trace ++ [.factory .fail, .err .setupHwAlloc], env := s.env.afterFactory }))

/-- R118: REGISTER reports 6 without a bus, then 3 on a registered slot, then faults on a shared chip-select pin; else
it binds the slot to the bus's delegate, keeps DC, and drives chip-select deasserted. -/
def Obligations.RegisterBindsTheSlot : Prop :=
  ∀ (s : State) (d : SlotId) (cpol : Level) (cpha : ClockPhase) (order : BitOrder) (cs : PinId) (rate : BitVec 32),
    (s.cstate ≠ .readySw ∧ s.cstate ≠ .readyHw →
      exec (.register d cpol cpha order cs rate) s = .next (reported .notReady s)) ∧
    ∀ k : Kind, (s.cstate = .readySw ∧ k = .bitbang) ∨ (s.cstate = .readyHw ∧ k = .hw) →
      ((s.slot d).kind ≠ .null → exec (.register d cpol cpha order cs rate) s = .next (reported .regDuplicate s)) ∧
      ((s.slot d).kind = .null → ¬ (offBusAndCs s cs ∧ ∀ m, apart cs (s.slot m).dc) →
        exec (.register d cpol cpha order cs rate) s = faultAt .pinAlias s) ∧
      ((s.slot d).kind = .null → offBusAndCs s cs → (∀ m, apart cs (s.slot m).dc) →
        ∃ t, exec (.register d cpol cpha order cs rate) s = .next t ∧
          Records s t (setupEvent cs .output ++ writeEvent cs (!s.params.csActive)) ∧
          t = { s with
            pc := s.pc + 1
            slots := s.slots.set d.val
              { kind := k, cpol := cpol, cpha := cpha, order := order, cs := cs, dc := (s.slot d).dc, rate := rate }
            trace := t.trace, lvl := t.lvl, dir := t.dir })

/-- R124: UNREGISTER clears a registered slot that does not hold the bus, keeps DC and touches no pin; on a NULL slot
it reports 4; on the slot that holds the bus it faults. -/
def Obligations.UnregisterFreesTheSlot : Prop :=
  ∀ (s : State) (d : SlotId),
    ((s.slot d).kind = .null → exec (.unregister d) s = .next (reported .unregUnknown s)) ∧
    ((s.slot d).kind ≠ .null → s.owner = some d → exec (.unregister d) s = faultAt .unregisterInTxn s) ∧
    ((s.slot d).kind ≠ .null → s.owner ≠ some d →
      exec (.unregister d) s = .next { s with
        pc := s.pc + 1
        slots := s.slots.set d.val
          { kind := .null, cpol := false, cpha := .leading, order := .msbFirst, cs := 0xFF#8, dc := (s.slot d).dc
            rate := 0#32 } })

/-- R127: SET_DC faults on a pin with another role; else it binds the pin, in every controller state, and drives it to
"data"; NONE unbinds and drives nothing. -/
def Obligations.SetDcBindsAndDrivesData : Prop :=
  ∀ (s : State) (d : SlotId) (dc : PinId),
    (¬ (offBusAndCs s dc ∧ ∀ m, m ≠ d → apart dc (s.slot m).dc) → exec (.setDc d dc) s = faultAt .pinAlias s) ∧
    (offBusAndCs s dc → (∀ m, m ≠ d → apart dc (s.slot m).dc) →
      ∃ t, exec (.setDc d dc) s = .next t ∧
        Records s t (setupEvent dc .output ++ writeEvent dc (!s.params.dcCommand)) ∧
        t = { s with
          pc := s.pc + 1, slots := s.slots.set d.val { s.slot d with dc := dc }
          trace := t.trace, lvl := t.lvl, dir := t.dir })

/-- R130: IS_READY writes RESULT 1 on a NULL or BITBANG slot and the backend's answer on a HW slot, with no report.
Where the backend's answer comes from and what the question leaves of the environment's answers is the model's form
(log entry 1). -/
def Obligations.IsReadyAnswersByKind : Prop :=
  ∀ (s : State) (d : SlotId),
    ((s.slot d).kind ≠ .hw → exec (.isReady d) s = .next { s with pc := s.pc + 1, result := 1#16 }) ∧
    ((s.slot d).kind = .hw → exec (.isReady d) s = .next { s with
      pc := s.pc + 1, result := if s.readyAnswer d then 1#16 else 0#16, env := s.env.afterReady })

/-! ### Transactions -/

/-- R180, R179: BEGIN takes a free bus and asserts chip-select; it faults on a bus in use; on a NULL slot it reports
5. -/
def Obligations.BeginTakesTheFreeBus : Prop :=
  ∀ (s : State) (d : SlotId),
    ((s.slot d).kind = .null → exec (.beginTxn d) s = .next (reported .uninit s)) ∧
    ((s.slot d).kind ≠ .null → s.owner = none →
      ∃ t, exec (.beginTxn d) s = .next t ∧ Records s t (writeEvent (s.slot d).cs s.params.csActive) ∧
        t = { s with pc := s.pc + 1, owner := some d, trace := t.trace, lvl := t.lvl }) ∧
    ((s.slot d).kind ≠ .null → s.owner = some d → exec (.beginTxn d) s = faultAt .nestedBegin s) ∧
    (∀ o, (s.slot d).kind ≠ .null → s.owner = some o → o ≠ d → exec (.beginTxn d) s = faultAt .busBusy s)

/-- R184, R181, R174: END deasserts chip-select and releases the bus if the slot holds it; on a NULL slot it reports
5. -/
def Obligations.EndReleasesOnlyItsOwnBus : Prop :=
  ∀ (s : State) (d : SlotId),
    ((s.slot d).kind = .null → exec (.endTxn d) s = .next (reported .uninit s)) ∧
    ((s.slot d).kind ≠ .null →
      ∃ t, exec (.endTxn d) s = .next t ∧ Records s t (writeEvent (s.slot d).cs (!s.params.csActive)) ∧
        t = { s with
          pc := s.pc + 1, owner := if s.owner = some d then none else s.owner, trace := t.trace, lvl := t.lvl })

/-- R185: BEGIN and at once END on a registered slot and a free bus change only the chip-select pin, which is asserted
and then deasserted, the owner, which is set and then cleared, the trace and `pc`. -/
def Obligations.BeginThenEndChangesChipSelectOnly : Prop :=
  ∀ (s : State) (d : SlotId), (s.slot d).kind ≠ .null → s.owner = none →
    ∃ u t, exec (.beginTxn d) s = .next u ∧ u.owner = some d ∧
      u.trace = s.trace ++ writeEvent (s.slot d).cs s.params.csActive ∧
      exec (.endTxn d) u = .next t ∧ t.trace = u.trace ++ writeEvent (s.slot d).cs s.csIdle ∧
      t = { s with pc := s.pc + 2, trace := t.trace, lvl := t.lvl } ∧
      (∀ q, q ≠ (s.slot d).cs → t.level q = s.level q) ∧
      ((s.slot d).cs ≠ noPin → t.level (s.slot d).cs = some s.csIdle)

/-! ### Transfers -/

/-- R150: TRANSFER reports 5 and writes RESULT 0 on a NULL slot; on a registered slot that holds the bus it runs the
unit of its kind and puts the received value in RESULT; on one that does not it faults before any effect. Where the
samples come from and what they leave of the environment's answers is the model's form (log entry 1). -/
def Obligations.TransferRunsItsUnit : Prop :=
  ∀ (s : State) (d : SlotId) (v : XferWord) (n : Nat), 1 ≤ n → n ≤ 16 →
    ((s.slot d).kind = .null → exec (.transfer d v n) s = .next { reported .uninit s with result := 0#16 }) ∧
    ((s.slot d).kind ≠ .null → s.owner = some d →
      ∃ t, exec (.transfer d v n) s = .next t ∧ UnitDone s d v n t ∧ ∀ k, t.result.getLsbD k = receivedBit s d n k) ∧
    ((s.slot d).kind ≠ .null → s.owner ≠ some d → exec (.transfer d v n) s = faultAt .transferOutsideTxn s)

/-- R153: WRITE reports 5 on a NULL slot, runs the unit of its kind on a slot that holds the bus, and leaves RESULT.
Where the samples come from and what they leave of the environment's answers is the model's form (log entry 1). -/
def Obligations.WriteRunsItsUnit : Prop :=
  ∀ (s : State) (d : SlotId) (v : XferWord) (n : Nat), 1 ≤ n → n ≤ 16 →
    ((s.slot d).kind = .null → exec (.write d v n) s = .next (reported .uninit s)) ∧
    ((s.slot d).kind ≠ .null → s.owner = some d →
      ∃ t, exec (.write d v n) s = .next t ∧ UnitDone s d v n t ∧ t.result = s.result) ∧
    ((s.slot d).kind ≠ .null → s.owner ≠ some d → exec (.write d v n) s = faultAt .transferOutsideTxn s)

/-- R156: TRANSFER8 as TRANSFER of the 8 bits of its byte; RESULT[31:8] = 0. Where the samples come from and what they
leave of the environment's answers is the model's form (log entry 1). -/
def Obligations.TransferEightRunsItsUnit : Prop :=
  ∀ (s : State) (d : SlotId) (b : Byte),
    ((s.slot d).kind = .null → exec (.transfer8 d b) s = .next { reported .uninit s with result := 0#16 }) ∧
    ((s.slot d).kind ≠ .null → s.owner = some d →
      ∃ t, exec (.transfer8 d b) s = .next t ∧ UnitDone s d (b.setWidth 16) 8 t ∧
        ∀ k, t.result.getLsbD k = receivedBit s d 8 k) ∧
    ((s.slot d).kind ≠ .null → s.owner ≠ some d → exec (.transfer8 d b) s = faultAt .transferOutsideTxn s)

/-- R152, R155: in every state WRITE is TRANSFER with RESULT left as it was, and TRANSFER8 is TRANSFER of 8 bits. -/
def Obligations.WriteAndTransferEightAreTransfer : Prop :=
  ∀ (s : State) (d : SlotId) (v : XferWord) (n : Nat) (b : Byte),
    exec (.write d v n) s = andThen (exec (.transfer d v n) s) (fun t => .next { t with result := s.result }) ∧
    exec (.transfer8 d b) s = exec (.transfer d (b.setWidth 16) 8) s

/-- R94, R95: the bits of VALUE at index NBITS and above are never sent, and CMD is ignored when CP = 0. -/
def Obligations.UnusedOperandBitsAreIgnored : Prop :=
  ∀ (s : State) (d : SlotId) (v v' : XferWord) (n : Nat) (cmd cmd' : Byte) (len addr : BitVec 16),
    ((∀ k, k < n → v.getLsbD k = v'.getLsbD k) →
      exec (.transfer d v n) s = exec (.transfer d v' n) s ∧ exec (.write d v n) s = exec (.write d v' n) s) ∧
    exec (.writeCmdData d false cmd len addr) s = exec (.writeCmdData d false cmd' len addr) s

/-- R172: the hardware-backed engine gives the bit-bang engine's value and, but for the trace, its state; its events
are the bit-bang engine's without waits and notification. -/
def Obligations.HardwareEngineDropsOnlyTiming : Prop :=
  ∀ (s : State) (d : SlotId) (v : XferWord) (n : Nat),
    (hwEngine d v n s).1 = (bbEngine d v n s).1 ∧
    (hwEngine d v n s).2 = { (bbEngine d v n s).2 with trace := (hwEngine d v n s).2.trace } ∧
    ∃ es, (bbEngine d v n s).2.trace = s.trace ++ es ∧
      (hwEngine d v n s).2.trace = s.trace ++ es.filter (fun e => !e.isTiming)

/-- R149, R154, R280: what a BBEngine call of `n` bits appends to the trace when CLK is a real pin of its own: 6n + 2
events, one fewer per bit for each of SDO and SDI that is NONE; `n` clock writes to the active level and n + 1 to the
idle level, 2n waits, and exactly one notification. With SDI = NONE every received bit is NOOP_READ_VALUE. -/
def Obligations.UnitEventCounts : Prop :=
  ∀ (s : State) (d : SlotId) (v : XferWord) (n : Nat), n ≤ 16 → s.bus.clk ≠ noPin → s.bus.clk ≠ s.bus.sdo →
    ∃ es, (bbEngine d v n s).2.trace = s.trace ++ es ∧
      (s.bus.sdo ≠ noPin → s.bus.sdi ≠ noPin → es.length = 6 * n + 2) ∧
      (s.bus.sdo = noPin → s.bus.sdi ≠ noPin → es.length = 5 * n + 2) ∧
      (s.bus.sdo ≠ noPin → s.bus.sdi = noPin → es.length = 5 * n + 2) ∧
      (s.bus.sdo = noPin → s.bus.sdi = noPin → es.length = 4 * n + 2) ∧
      es.count (.write s.bus.clk (!(s.slot d).cpol)) = n ∧
      es.count (.write s.bus.clk (s.slot d).cpol) = n + 1 ∧
      es.count .half = 2 * n ∧ es.count .alive = 1 ∧
      (s.bus.sdi = noPin → ∀ k, (bbEngine d v n s).1.getLsbD k = (decide (k < n) && s.params.noopRead))

/-- R143 to R146 and the mode table of R157: at every sample that a run of either engine appends to the trace, CLK
being a real pin of its own, the clock is at the active level and a real data-out holds the bit of the sample's step.
Where the sampled value comes from is the model's form (log entry 1). -/
def Obligations.SamplesWhileClockActiveAndDataStable : Prop :=
  ∀ (s t : State) (d : SlotId) (v : XferWord) (n : Nat) (pre post : List Event) (a : Level),
    s.bus.clk ≠ noPin → s.bus.sdi ≠ noPin → s.bus.clk ≠ s.bus.sdo →
    t = (bbEngine d v n s).2 ∨ t = (hwEngine d v n s).2 →
    t.trace = s.trace ++ (pre ++ .read s.bus.sdi a :: post) →
      let i := pre.countP Event.isRead
      i < n ∧ a = s.sample i ∧ levelAfter s.bus.clk pre (s.level s.bus.clk) = some (!(s.slot d).cpol) ∧
        (s.bus.sdo ≠ noPin → levelAfter s.bus.sdo pre (s.level s.bus.sdo) =
          some (v.getLsbD (bitIndex (s.slot d).order n i)))

/-- R157: after a unit CLK is at the slot's idle level and SDO holds the last bit sent. -/
def Obligations.UnitLeavesClockIdleAndLastBit : Prop :=
  ∀ (s t : State) (d : SlotId) (v : XferWord) (n : Nat), 1 ≤ n → n ≤ 16 → (s.slot d).kind ≠ .null → s.owner = some d →
    s.bus.clk ≠ noPin → s.bus.clk ≠ s.bus.sdo → exec (.transfer d v n) s = .next t →
      t.level s.bus.clk = some (s.slot d).cpol ∧
      (s.bus.sdo ≠ noPin → t.level s.bus.sdo = some
        (match (s.slot d).order with | .msbFirst => v.getLsbD 0 | .lsbFirst => v.getLsbD (n - 1)))

/-- R151: with data-out wired to data-in (every sample answers the bit its step sent), TRANSFER returns VALUE[n-1:0]
in every mode and both bit orders. That the loopback is a premise on the list of the environment's answers is the
model's form (log entry 1). -/
def Obligations.LoopbackReturnsTheValue : Prop :=
  ∀ (s : State) (d : SlotId) (v : XferWord) (n : Nat), 1 ≤ n → n ≤ 16 → (s.slot d).kind ≠ .null → s.owner = some d →
    s.bus.sdo ≠ noPin → s.bus.sdi ≠ noPin →
    (∀ i, i < n → s.env.sdiAt i = v.getLsbD (bitIndex (s.slot d).order n i)) →
      ∃ t, exec (.transfer d v n) s = .next t ∧ ∀ k, t.result.getLsbD k = (decide (k < n) && v.getLsbD k)

/-! ### Framing -/

/-- R200, R202, R203, R199: a frame on a registered slot and a free bus, whose bytes the host wrote, sends the
bracket, the command byte, the data bytes and mode-select back to data; the bus is free again. Where the samples come
from and what they leave of the environment's answers is the model's form (log entry 1). -/
def Obligations.FrameSendsCommandAndData : Prop :=
  ∀ (s : State) (d : SlotId) (cp : Bool) (cmd : Byte) (len addr : BitVec 16),
    addr.toNat + len.toNat ≤ 65536 → (s.slot d).kind ≠ .null → s.owner = none →
    bufWritten s.dbuf addr.toNat len.toNat →
      ∃ t, exec (.writeCmdData d cp cmd len addr) s = .next t ∧
        Records s t (frameEvents s d cp cmd (bufBytes s.dbuf addr.toNat len.toNat)) ∧
        t = { s with
          pc := s.pc + 1, env := s.envAfterSamples (8 * (len.toNat + if cp then 1 else 0))
          trace := t.trace, lvl := t.lvl }

/-- R205: a frame on a NULL slot reports 5 for each delegate call and drives mode-select only; it reads its bytes, and
stops at the first the host never wrote. -/
def Obligations.FrameOnNullSlotReportsFive : Prop :=
  ∀ (s : State) (d : SlotId) (cp : Bool) (cmd : Byte) (len addr : BitVec 16),
    addr.toNat + len.toNat ≤ 65536 → (s.slot d).kind = .null →
      (bufWritten s.dbuf addr.toNat len.toNat →
        ∃ t, exec (.writeCmdData d cp cmd len addr) s = .next t ∧ Records s t (nullFrameEvents s d cp len.toNat) ∧
          t = { s with pc := s.pc + 1, status := s.status.report .uninit, trace := t.trace, lvl := t.lvl }) ∧
      (∀ k, k < len.toNat → bufWritten s.dbuf addr.toNat k → s.byteAt (addr.toNat + k) = none →
        ∃ t, exec (.writeCmdData d cp cmd len addr) s = .fault (.unwrittenDbuf t) ∧
          Records s t (nullFrameHead s d cp true k) ∧
          t = { s with
            status := s.status.report .uninit, fault := some .unwrittenDbuf, trace := t.trace, lvl := t.lvl })

/-- R201, R70: a frame whose bytes leave the data buffer reports 8 and has no other effect. -/
def Obligations.FrameRangeReportsEight : Prop :=
  ∀ (s : State) (d : SlotId) (cp : Bool) (cmd : Byte) (len addr : BitVec 16),
    65536 < addr.toNat + len.toNat → exec (.writeCmdData d cp cmd len addr) s = .next (reported .range s)

/-- R179, R271: a frame on a registered slot while a transaction is in flight faults before any effect. -/
def Obligations.FrameInsideTransactionFaults : Prop :=
  ∀ (s : State) (d o : SlotId) (cp : Bool) (cmd : Byte) (len addr : BitVec 16),
    addr.toNat + len.toNat ≤ 65536 → (s.slot d).kind ≠ .null → s.owner = some o →
      exec (.writeCmdData d cp cmd len addr) s = faultAt (if o = d then .nestedBegin else .busBusy) s

/-- R61, R236: a frame whose first unwritten byte is byte `k` faults there, after the events of the bytes before it,
with the bus taken and `pc` not advanced. Where the samples come from and what they leave of the environment's answers
is the model's form (log entry 1). -/
def Obligations.UnwrittenByteFaultsAfterItsForerunners : Prop :=
  ∀ (s : State) (d : SlotId) (cp : Bool) (cmd : Byte) (len addr : BitVec 16) (k : Nat),
    addr.toNat + len.toNat ≤ 65536 → (s.slot d).kind ≠ .null → s.owner = none →
    k < len.toNat → bufWritten s.dbuf addr.toNat k → s.byteAt (addr.toNat + k) = none →
      ∃ t, exec (.writeCmdData d cp cmd len addr) s = .fault (.unwrittenDbuf t) ∧
        Records s t (frameHead s d cp cmd true (bufBytes s.dbuf addr.toNat k)) ∧
        t = { s with
          owner := some d, fault := some .unwrittenDbuf
          env := s.envAfterSamples (8 * (k + if cp then 1 else 0)), trace := t.trace, lvl := t.lvl }

/-! ### Rules of the whole machine -/

/-- R15: no command and no step is refused. -/
def Obligations.NothingIsRefused : Prop :=
  ∀ (s : State) (i : Instr) (r : Refusal), exec i s ≠ .refused r ∧ step s ≠ .refused r

/-- R21, R236: a command that completes moves `pc` on by one and raises no fault mark; one that faults leaves `pc` and
sets the mark to its kind, and but for an unwritten byte changes nothing else. -/
def Obligations.CommandsCompleteOrFaultCleanly : Prop :=
  ∀ (s : State) (i : Instr),
    (∀ t, exec i s = .next t → t.pc = s.pc + 1 ∧ t.fault = s.fault) ∧
    (∀ f, exec i s = .fault f → f.final.fault = some f.kind ∧ f.final.pc = s.pc ∧
      (f.kind ≠ .unwrittenDbuf → f.final = { s with fault := some f.kind }))

/-- R23: CSTATE changes only by a SETUP command or reset. The queue of host actions is the model's form (log entry 2).
-/
def Obligations.OnlySetupOrResetChangesCstate : Prop :=
  ∀ s t : State, step s = .next t → t.cstate ≠ s.cstate →
    (∃ rest, s.env.actions = .reset :: rest) ∨
    ∃ w rest clk sdo sdi hw iface, s.env.actions = .command w :: rest ∧ decode w = .ok (.setup clk sdo sdi hw iface)

/-- R235, R114: a failed setup is final: no step but a reset leaves FAILED. The queue of host actions is the model's
form (log entry 2). -/
def Obligations.FailedSetupIsFinal : Prop :=
  ∀ s t : State, s.cstate = .failed → step s = .next t →
    t.cstate = .failed ∨ ∃ rest, s.env.actions = .reset :: rest

/-- R25: RESULT is written by TRANSFER, TRANSFER8 and IS_READY and by no other command. -/
def Obligations.OnlyReturningCommandsWriteResult : Prop :=
  ∀ (s t : State) (i : Instr), exec i s = .next t →
    (∀ d v n, i ≠ .transfer d v n) → (∀ d b, i ≠ .transfer8 d b) → (∀ d, i ≠ .isReady d) → t.result = s.result

/-- R60, R62: only the host writes the data buffer: no command changes a byte or a mark of it, not even one that
faults. -/
def Obligations.OnlyTheHostWritesTheDataBuffer : Prop :=
  ∀ (s : State) (i : Instr),
    (∀ t, exec i s = .next t → t.dbuf = s.dbuf) ∧ (∀ f, exec i s = .fault f → f.final.dbuf = s.dbuf)

/-- R29: once the controller has left UNCONFIGURED no command writes the bus descriptor. -/
def Obligations.DescriptorIsWrittenOnce : Prop :=
  ∀ (s t : State) (i : Instr), exec i s = .next t → s.cstate ≠ .unconfigured → t.bus = s.bus

/-- R39: no command but SET_DC changes a slot's mode-select pin. -/
def Obligations.OnlySetDcBindsModeSelect : Prop :=
  ∀ (s t : State) (i : Instr), exec i s = .next t → (∀ d dc, i ≠ .setDc d dc) →
    ∀ m, (t.slot m).dc = (s.slot m).dc

/-- R24, R30, R231, R233: a command appends its events to the trace; LAST_ERR is the code of the last report among
them; the sticky bits are only set. That LAST_ERR is as it was where the command reports nothing is the model's split
of step and exec (log entry 8): the step clears it before exec (R231), so that a step leaves the 0 of R24. -/
def Obligations.CommandsAppendAndReport : Prop :=
  ∀ (s t : State) (i : Instr), exec i s = .next t →
    ∃ es, t.trace = s.trace ++ es ∧ t.status.lastErr = lastReport es s.status.lastErr ∧
      (s.status.sFatal = true → t.status.sFatal = true) ∧ (s.status.sReg = true → t.status.sReg = true) ∧
      (s.status.sUninit = true → t.status.sUninit = true) ∧ (s.status.sIllegal = true → t.status.sIllegal = true)

/-! ### Memory -/

/-- Canonical form: data buffers that hold the same bytes and marks are equal data. The form is the model's (log entry
10). -/
def Obligations.CanonicalBuffersAreEqualData : Prop :=
  ∀ m m' : Memory, Memory.wf m → Memory.wf m' → (∀ a, Cells.read m a = Cells.read m' a) → m = m'

/-! ### Invariants that every step keeps -/

/-- R42, R37, R34, R36, R29, R110, R178, R203, R31: the machine right after reset meets every invariant below. The
canonical form is the model's (log entry 10). -/
def Obligations.ResetMeetsEveryInvariant : Prop :=
  DelegateInv State.reset ∧ SlotInv State.reset ∧ BusInv State.reset ∧ PinRoles State.reset ∧
    ChipSelectInv State.reset ∧ ModeSelectInv State.reset ∧ TraceInv State.reset ∧ CellsInv State.reset

/-- R37: every step keeps the four invariants of the delegates. -/
def Obligations.StepKeepsDelegateInvariants : Prop := ∀ s t : State, DelegateInv s → step s = .next t → DelegateInv t

/-- R34, R36: every step keeps a NULL slot's configuration at reset and RATE 0 exactly on NULL slots. -/
def Obligations.StepKeepsSlotConfiguration : Prop := ∀ s t : State, SlotInv s → step s = .next t → SlotInv t

/-- R29, R112: every step keeps the descriptor at its reset value until a SETUP succeeds, and with a clock pin after.
-/
def Obligations.StepKeepsDescriptor : Prop := ∀ s t : State, BusInv s → step s = .next t → BusInv t

/-- R110, R275: every step keeps the pin roles apart. -/
def Obligations.StepKeepsPinRolesApart : Prop :=
  ∀ s t : State, DelegateInv s → PinRoles s → step s = .next t → PinRoles t

/-- R178, R117, R203, R126: every step leaves chip-select asserted on exactly the slot that holds the bus, and every
bound mode-select pin at the data level. -/
def Obligations.StepKeepsSelectLinesAtRest : Prop :=
  ∀ s t : State, DelegateInv s → PinRoles s → ChipSelectInv s → ModeSelectInv s → step s = .next t →
    ChipSelectInv t ∧ ModeSelectInv t

/-- R31: every step keeps the pin records equal to what the trace says. -/
def Obligations.StepKeepsRecordsOfTheTrace : Prop := ∀ s t : State, TraceInv s → step s = .next t → TraceInv t

/-- R60: every step keeps the data buffer and the pin records in canonical form. The form is the model's (log entry
10). -/
def Obligations.StepKeepsCanonicalForm : Prop := ∀ s t : State, CellsInv s → step s = .next t → CellsInv t
end

