-- ==== Sys2Proof/Laws/Cells.lean ====
section
/-!
SUPPORT. Cells: read after write, the canonical form and its extensionality, for the data buffer and the pin records.
-/

namespace Sys2Proof.Machine

variable {β : Type}

@[simp] theorem Cells.read_nil (a : Nat) : Cells.read ([] : Cells β) a = none := rfl

theorem Cells.read_cons (k : Nat) (v : β) (r : Cells β) (a : Nat) :
    Cells.read ((k, v) :: r) a = if k = a then some v else Cells.read r a := rfl

/-- A read after a write gives the value at the written key and the old value at every other. -/
@[simp] theorem Cells.read_write (a b : Nat) (v : β) (c : Cells β) :
    Cells.read (Cells.write a v c) b = if a = b then some v else Cells.read c b := by
  induction c with
  | nil => simp [Cells.write, Cells.read_cons]
  | cons x r ih =>
    obtain ⟨k, w⟩ := x
    simp only [Cells.write]
    split
    · simp [Cells.read_cons]
    · split
      · subst k; simp only [Cells.read_cons]; split <;> simp_all
      · simp only [Cells.read_cons, ih]
        split <;> split <;> simp_all

/-- The keys of a write are the written key and the old ones. -/
theorem Cells.mem_write {a : Nat} {v : β} {c : Cells β} {x : Nat × β} (h : x ∈ Cells.write a v c) :
    x = (a, v) ∨ x ∈ c := by
  induction c with
  | nil => simpa [Cells.write] using h
  | cons y r ih =>
    obtain ⟨k, w⟩ := y
    simp only [Cells.write] at h
    split at h
    · simpa using h
    · split at h
      · simp only [List.mem_cons] at h ⊢; tauto
      · simp only [List.mem_cons] at h ⊢
        rcases h with h | h
        · exact .inr (.inl h)
        · exact (ih h).imp id .inr

/-- A write keeps the keys strictly rising. -/
theorem Cells.pairwise_write {a : Nat} {v : β} {c : Cells β} (h : c.Pairwise (fun x y => x.1 < y.1)) :
    (Cells.write a v c).Pairwise (fun x y => x.1 < y.1) := by
  induction c with
  | nil => simp [Cells.write]
  | cons y r ih =>
    obtain ⟨k, w⟩ := y
    have h' := List.pairwise_cons.mp h
    simp only [Cells.write]
    split
    · rename_i hak
      refine List.pairwise_cons.mpr ⟨?_, h⟩
      intro z hz
      rcases List.mem_cons.mp hz with rfl | hz
      · exact hak
      · exact lt_trans hak (h'.1 z hz)
    · split
      · subst k; exact List.pairwise_cons.mpr ⟨h'.1, h'.2⟩
      · refine List.pairwise_cons.mpr ⟨?_, ih h'.2⟩
        intro z hz
        rcases Cells.mem_write hz with rfl | hz
        · show k < a; omega
        · exact h'.1 z hz

/-- A write below the bound keeps the canonical form. -/
theorem Cells.wf_write {a bound : Nat} {v : β} {c : Cells β} (ha : a < bound) (h : Cells.wf bound c) :
    Cells.wf bound (Cells.write a v c) :=
  ⟨Cells.pairwise_write h.1, fun x hx => by
    rcases Cells.mem_write hx with rfl | hx
    · exact ha
    · exact h.2 x hx⟩

/-- No cells are in canonical form. -/
theorem Cells.wf_nil (bound : Nat) : Cells.wf bound ([] : Cells β) := ⟨List.Pairwise.nil, by simp⟩

/-- A key below every key of the cells reads as no value. -/
theorem Cells.read_eq_none {a : Nat} {c : Cells β} (h : ∀ x ∈ c, a < x.1) : Cells.read c a = none := by
  induction c with
  | nil => rfl
  | cons y r ih =>
    have := h y (by simp)
    rw [Cells.read_cons, if_neg (by omega), ih (fun x hx => h x (by simp [hx]))]

/-- The host's write of a byte keeps the data buffer canonical (R222). -/
theorem Memory.wf_write {a : BitVec 16} {b : Byte} {m : Memory} (h : Memory.wf m) : Memory.wf (m.write a b) :=
  Cells.wf_write (by simpa [Config.dbufSize] using a.isLt) h

/-- Reset's data buffer is canonical. -/
theorem Memory.wf_reset : Memory.wf State.reset.dbuf := Cells.wf_nil _

/-- A real pin's id is below the bound of the pin records. -/
theorem pin_lt {p : PinId} (h : p ≠ noPin) : p.toNat < Config.numPins := by
  have h1 : p.toNat ≠ 255 := fun h' => h (BitVec.eq_of_toNat_eq (by simpa [noPin] using h'))
  have h2 := p.isLt
  simp only [Config.numPins]; omega

end Sys2Proof.Machine
end

