-- ==== Sys2Proof/Laws/State.lean ====
section
/-!
SUPPORT. What each operation on the state does to each field: one lemma per field per operation. An operation that may do
nothing (a pin operation on the no-op pin) has here its lemmas for the fields it never changes; Laws/Ops.lean says what it
does to the others.
-/

namespace Sys2Proof.Machine

/-! ### emit -/

@[simp] theorem State.emit_pc (e : Event) (s : State) : (s.emit e).pc = s.pc := rfl

@[simp] theorem State.emit_cstate (e : Event) (s : State) : (s.emit e).cstate = s.cstate := rfl

@[simp] theorem State.emit_status (e : Event) (s : State) : (s.emit e).status = s.status := rfl

@[simp] theorem State.emit_result (e : Event) (s : State) : (s.emit e).result = s.result := rfl

@[simp] theorem State.emit_owner (e : Event) (s : State) : (s.emit e).owner = s.owner := rfl

@[simp] theorem State.emit_bus (e : Event) (s : State) : (s.emit e).bus = s.bus := rfl

@[simp] theorem State.emit_slots (e : Event) (s : State) : (s.emit e).slots = s.slots := rfl

@[simp] theorem State.emit_dir (e : Event) (s : State) : (s.emit e).dir = s.dir := rfl

@[simp] theorem State.emit_lvl (e : Event) (s : State) : (s.emit e).lvl = s.lvl := rfl

@[simp] theorem State.emit_dbuf (e : Event) (s : State) : (s.emit e).dbuf = s.dbuf := rfl

@[simp] theorem State.emit_trace (e : Event) (s : State) : (s.emit e).trace = s.trace ++ [e] := rfl

@[simp] theorem State.emit_fault (e : Event) (s : State) : (s.emit e).fault = s.fault := rfl

@[simp] theorem State.emit_params (e : Event) (s : State) : (s.emit e).params = s.params := rfl

@[simp] theorem State.emit_env (e : Event) (s : State) : (s.emit e).env = s.env := rfl

@[simp] theorem State.emit_slot (m : SlotId) (e : Event) (s : State) : (s.emit e).slot m = s.slot m := rfl

/-! ### advance -/

@[simp] theorem State.advance_pc (s : State) : s.advance.pc = s.pc + 1 := rfl

@[simp] theorem State.advance_cstate (s : State) : s.advance.cstate = s.cstate := rfl

@[simp] theorem State.advance_status (s : State) : s.advance.status = s.status := rfl

@[simp] theorem State.advance_result (s : State) : s.advance.result = s.result := rfl

@[simp] theorem State.advance_owner (s : State) : s.advance.owner = s.owner := rfl

@[simp] theorem State.advance_bus (s : State) : s.advance.bus = s.bus := rfl

@[simp] theorem State.advance_slots (s : State) : s.advance.slots = s.slots := rfl

@[simp] theorem State.advance_dir (s : State) : s.advance.dir = s.dir := rfl

@[simp] theorem State.advance_lvl (s : State) : s.advance.lvl = s.lvl := rfl

@[simp] theorem State.advance_dbuf (s : State) : s.advance.dbuf = s.dbuf := rfl

@[simp] theorem State.advance_trace (s : State) : s.advance.trace = s.trace := rfl

@[simp] theorem State.advance_fault (s : State) : s.advance.fault = s.fault := rfl

@[simp] theorem State.advance_params (s : State) : s.advance.params = s.params := rfl

@[simp] theorem State.advance_env (s : State) : s.advance.env = s.env := rfl

@[simp] theorem State.advance_slot (m : SlotId) (s : State) : s.advance.slot m = s.slot m := rfl

/-! ### setResult -/

@[simp] theorem State.setResult_pc (v : XferWord) (s : State) : (s.setResult v).pc = s.pc := rfl

@[simp] theorem State.setResult_cstate (v : XferWord) (s : State) : (s.setResult v).cstate = s.cstate := rfl

@[simp] theorem State.setResult_status (v : XferWord) (s : State) : (s.setResult v).status = s.status := rfl

@[simp] theorem State.setResult_result (v : XferWord) (s : State) : (s.setResult v).result = v := rfl

@[simp] theorem State.setResult_owner (v : XferWord) (s : State) : (s.setResult v).owner = s.owner := rfl

@[simp] theorem State.setResult_bus (v : XferWord) (s : State) : (s.setResult v).bus = s.bus := rfl

@[simp] theorem State.setResult_slots (v : XferWord) (s : State) : (s.setResult v).slots = s.slots := rfl

@[simp] theorem State.setResult_dir (v : XferWord) (s : State) : (s.setResult v).dir = s.dir := rfl

@[simp] theorem State.setResult_lvl (v : XferWord) (s : State) : (s.setResult v).lvl = s.lvl := rfl

@[simp] theorem State.setResult_dbuf (v : XferWord) (s : State) : (s.setResult v).dbuf = s.dbuf := rfl

@[simp] theorem State.setResult_trace (v : XferWord) (s : State) : (s.setResult v).trace = s.trace := rfl

@[simp] theorem State.setResult_fault (v : XferWord) (s : State) : (s.setResult v).fault = s.fault := rfl

@[simp] theorem State.setResult_params (v : XferWord) (s : State) : (s.setResult v).params = s.params := rfl

@[simp] theorem State.setResult_env (v : XferWord) (s : State) : (s.setResult v).env = s.env := rfl

@[simp] theorem State.setResult_slot (m : SlotId) (v : XferWord) (s : State) : (s.setResult v).slot m = s.slot m := rfl

/-! ### setSlot -/

@[simp] theorem State.setSlot_pc (d : SlotId) (c : Slot) (s : State) : (s.setSlot d c).pc = s.pc := rfl

@[simp] theorem State.setSlot_cstate (d : SlotId) (c : Slot) (s : State) : (s.setSlot d c).cstate = s.cstate := rfl

@[simp] theorem State.setSlot_status (d : SlotId) (c : Slot) (s : State) : (s.setSlot d c).status = s.status := rfl

@[simp] theorem State.setSlot_result (d : SlotId) (c : Slot) (s : State) : (s.setSlot d c).result = s.result := rfl

@[simp] theorem State.setSlot_owner (d : SlotId) (c : Slot) (s : State) : (s.setSlot d c).owner = s.owner := rfl

@[simp] theorem State.setSlot_bus (d : SlotId) (c : Slot) (s : State) : (s.setSlot d c).bus = s.bus := rfl

@[simp] theorem State.setSlot_slots (d : SlotId) (c : Slot) (s : State) : (s.setSlot d c).slots = s.slots.set d.val c := rfl

@[simp] theorem State.setSlot_dir (d : SlotId) (c : Slot) (s : State) : (s.setSlot d c).dir = s.dir := rfl

@[simp] theorem State.setSlot_lvl (d : SlotId) (c : Slot) (s : State) : (s.setSlot d c).lvl = s.lvl := rfl

@[simp] theorem State.setSlot_dbuf (d : SlotId) (c : Slot) (s : State) : (s.setSlot d c).dbuf = s.dbuf := rfl

@[simp] theorem State.setSlot_trace (d : SlotId) (c : Slot) (s : State) : (s.setSlot d c).trace = s.trace := rfl

@[simp] theorem State.setSlot_fault (d : SlotId) (c : Slot) (s : State) : (s.setSlot d c).fault = s.fault := rfl

@[simp] theorem State.setSlot_params (d : SlotId) (c : Slot) (s : State) : (s.setSlot d c).params = s.params := rfl

@[simp] theorem State.setSlot_env (d : SlotId) (c : Slot) (s : State) : (s.setSlot d c).env = s.env := rfl

@[simp] theorem State.setSlot_slot (d m : SlotId) (c : Slot) (s : State) :
    (s.setSlot d c).slot m = if d = m then c else s.slot m := by
  simp [State.slot, State.setSlot, Vector.getElem_set, Fin.ext_iff]

/-! ### report -/

@[simp] theorem State.report_pc (c : ErrCode) (s : State) : (s.report c).pc = s.pc := rfl

@[simp] theorem State.report_cstate (c : ErrCode) (s : State) : (s.report c).cstate = s.cstate := rfl

@[simp] theorem State.report_status (c : ErrCode) (s : State) : (s.report c).status = s.status.report c := rfl

@[simp] theorem State.report_result (c : ErrCode) (s : State) : (s.report c).result = s.result := rfl

@[simp] theorem State.report_owner (c : ErrCode) (s : State) : (s.report c).owner = s.owner := rfl

@[simp] theorem State.report_bus (c : ErrCode) (s : State) : (s.report c).bus = s.bus := rfl

@[simp] theorem State.report_slots (c : ErrCode) (s : State) : (s.report c).slots = s.slots := rfl

@[simp] theorem State.report_dir (c : ErrCode) (s : State) : (s.report c).dir = s.dir := rfl

@[simp] theorem State.report_lvl (c : ErrCode) (s : State) : (s.report c).lvl = s.lvl := rfl

@[simp] theorem State.report_dbuf (c : ErrCode) (s : State) : (s.report c).dbuf = s.dbuf := rfl

@[simp] theorem State.report_trace (c : ErrCode) (s : State) : (s.report c).trace = s.trace ++ [.err c] := rfl

@[simp] theorem State.report_fault (c : ErrCode) (s : State) : (s.report c).fault = s.fault := rfl

@[simp] theorem State.report_params (c : ErrCode) (s : State) : (s.report c).params = s.params := rfl

@[simp] theorem State.report_env (c : ErrCode) (s : State) : (s.report c).env = s.env := rfl

@[simp] theorem State.report_slot (m : SlotId) (c : ErrCode) (s : State) : (s.report c).slot m = s.slot m := rfl

/-! ### startCommand -/

@[simp] theorem State.startCommand_pc (s : State) : s.startCommand.pc = s.pc := rfl

@[simp] theorem State.startCommand_cstate (s : State) : s.startCommand.cstate = s.cstate := rfl

@[simp] theorem State.startCommand_status (s : State) : s.startCommand.status = s.status.clearErr := rfl

@[simp] theorem State.startCommand_result (s : State) : s.startCommand.result = s.result := rfl

@[simp] theorem State.startCommand_owner (s : State) : s.startCommand.owner = s.owner := rfl

@[simp] theorem State.startCommand_bus (s : State) : s.startCommand.bus = s.bus := rfl

@[simp] theorem State.startCommand_slots (s : State) : s.startCommand.slots = s.slots := rfl

@[simp] theorem State.startCommand_dir (s : State) : s.startCommand.dir = s.dir := rfl

@[simp] theorem State.startCommand_lvl (s : State) : s.startCommand.lvl = s.lvl := rfl

@[simp] theorem State.startCommand_dbuf (s : State) : s.startCommand.dbuf = s.dbuf := rfl

@[simp] theorem State.startCommand_trace (s : State) : s.startCommand.trace = s.trace := rfl

@[simp] theorem State.startCommand_fault (s : State) : s.startCommand.fault = s.fault := rfl

@[simp] theorem State.startCommand_params (s : State) : s.startCommand.params = s.params := rfl

@[simp] theorem State.startCommand_env (s : State) : s.startCommand.env = s.env := rfl

@[simp] theorem State.startCommand_slot (m : SlotId) (s : State) : s.startCommand.slot m = s.slot m := rfl

/-! ### setBus -/

@[simp] theorem State.setBus_pc (clk sdo sdi : PinId) (hw : Bool) (iface : BitVec 8) (c : CState) (s : State) : (s.setBus clk sdo sdi hw iface c).pc = s.pc := rfl

@[simp] theorem State.setBus_cstate (clk sdo sdi : PinId) (hw : Bool) (iface : BitVec 8) (c : CState) (s : State) : (s.setBus clk sdo sdi hw iface c).cstate = c := rfl

@[simp] theorem State.setBus_status (clk sdo sdi : PinId) (hw : Bool) (iface : BitVec 8) (c : CState) (s : State) : (s.setBus clk sdo sdi hw iface c).status = s.status := rfl

@[simp] theorem State.setBus_result (clk sdo sdi : PinId) (hw : Bool) (iface : BitVec 8) (c : CState) (s : State) : (s.setBus clk sdo sdi hw iface c).result = s.result := rfl

@[simp] theorem State.setBus_owner (clk sdo sdi : PinId) (hw : Bool) (iface : BitVec 8) (c : CState) (s : State) : (s.setBus clk sdo sdi hw iface c).owner = s.owner := rfl

@[simp] theorem State.setBus_bus (clk sdo sdi : PinId) (hw : Bool) (iface : BitVec 8) (c : CState) (s : State) : (s.setBus clk sdo sdi hw iface c).bus = { clk := clk, sdo := sdo, sdi := sdi, hw := hw, iface := iface } := rfl

@[simp] theorem State.setBus_slots (clk sdo sdi : PinId) (hw : Bool) (iface : BitVec 8) (c : CState) (s : State) : (s.setBus clk sdo sdi hw iface c).slots = s.slots := rfl

@[simp] theorem State.setBus_dir (clk sdo sdi : PinId) (hw : Bool) (iface : BitVec 8) (c : CState) (s : State) : (s.setBus clk sdo sdi hw iface c).dir = s.dir := rfl

@[simp] theorem State.setBus_lvl (clk sdo sdi : PinId) (hw : Bool) (iface : BitVec 8) (c : CState) (s : State) : (s.setBus clk sdo sdi hw iface c).lvl = s.lvl := rfl

@[simp] theorem State.setBus_dbuf (clk sdo sdi : PinId) (hw : Bool) (iface : BitVec 8) (c : CState) (s : State) : (s.setBus clk sdo sdi hw iface c).dbuf = s.dbuf := rfl

@[simp] theorem State.setBus_trace (clk sdo sdi : PinId) (hw : Bool) (iface : BitVec 8) (c : CState) (s : State) : (s.setBus clk sdo sdi hw iface c).trace = s.trace := rfl

@[simp] theorem State.setBus_fault (clk sdo sdi : PinId) (hw : Bool) (iface : BitVec 8) (c : CState) (s : State) : (s.setBus clk sdo sdi hw iface c).fault = s.fault := rfl

@[simp] theorem State.setBus_params (clk sdo sdi : PinId) (hw : Bool) (iface : BitVec 8) (c : CState) (s : State) : (s.setBus clk sdo sdi hw iface c).params = s.params := rfl

@[simp] theorem State.setBus_env (clk sdo sdi : PinId) (hw : Bool) (iface : BitVec 8) (c : CState) (s : State) : (s.setBus clk sdo sdi hw iface c).env = s.env := rfl

@[simp] theorem State.setBus_slot (m : SlotId) (clk sdo sdi : PinId) (hw : Bool) (iface : BitVec 8) (c : CState) (s : State) : (s.setBus clk sdo sdi hw iface c).slot m = s.slot m := rfl

/-! ### nullReport -/

@[simp] theorem State.nullReport_pc (s : State) : s.nullReport.pc = s.pc := rfl

@[simp] theorem State.nullReport_cstate (s : State) : s.nullReport.cstate = s.cstate := rfl

@[simp] theorem State.nullReport_status (s : State) : s.nullReport.status = s.status.report .uninit := rfl

@[simp] theorem State.nullReport_result (s : State) : s.nullReport.result = s.result := rfl

@[simp] theorem State.nullReport_owner (s : State) : s.nullReport.owner = s.owner := rfl

@[simp] theorem State.nullReport_bus (s : State) : s.nullReport.bus = s.bus := rfl

@[simp] theorem State.nullReport_slots (s : State) : s.nullReport.slots = s.slots := rfl

@[simp] theorem State.nullReport_dir (s : State) : s.nullReport.dir = s.dir := rfl

@[simp] theorem State.nullReport_lvl (s : State) : s.nullReport.lvl = s.lvl := rfl

@[simp] theorem State.nullReport_dbuf (s : State) : s.nullReport.dbuf = s.dbuf := rfl

@[simp] theorem State.nullReport_trace (s : State) : s.nullReport.trace = s.trace ++ [.err .uninit] := rfl

@[simp] theorem State.nullReport_fault (s : State) : s.nullReport.fault = s.fault := rfl

@[simp] theorem State.nullReport_params (s : State) : s.nullReport.params = s.params := rfl

@[simp] theorem State.nullReport_env (s : State) : s.nullReport.env = s.env := rfl

@[simp] theorem State.nullReport_slot (m : SlotId) (s : State) : s.nullReport.slot m = s.slot m := rfl

/-! ### nullTransfer -/

@[simp] theorem State.nullTransfer_pc (s : State) : s.nullTransfer.pc = s.pc := rfl

@[simp] theorem State.nullTransfer_cstate (s : State) : s.nullTransfer.cstate = s.cstate := rfl

@[simp] theorem State.nullTransfer_status (s : State) : s.nullTransfer.status = s.status.report .uninit := rfl

@[simp] theorem State.nullTransfer_result (s : State) : s.nullTransfer.result = 0#16 := rfl

@[simp] theorem State.nullTransfer_owner (s : State) : s.nullTransfer.owner = s.owner := rfl

@[simp] theorem State.nullTransfer_bus (s : State) : s.nullTransfer.bus = s.bus := rfl

@[simp] theorem State.nullTransfer_slots (s : State) : s.nullTransfer.slots = s.slots := rfl

@[simp] theorem State.nullTransfer_dir (s : State) : s.nullTransfer.dir = s.dir := rfl

@[simp] theorem State.nullTransfer_lvl (s : State) : s.nullTransfer.lvl = s.lvl := rfl

@[simp] theorem State.nullTransfer_dbuf (s : State) : s.nullTransfer.dbuf = s.dbuf := rfl

@[simp] theorem State.nullTransfer_trace (s : State) : s.nullTransfer.trace = s.trace ++ [.err .uninit] := rfl

@[simp] theorem State.nullTransfer_fault (s : State) : s.nullTransfer.fault = s.fault := rfl

@[simp] theorem State.nullTransfer_params (s : State) : s.nullTransfer.params = s.params := rfl

@[simp] theorem State.nullTransfer_env (s : State) : s.nullTransfer.env = s.env := rfl

@[simp] theorem State.nullTransfer_slot (m : SlotId) (s : State) : s.nullTransfer.slot m = s.slot m := rfl

/-! ### hostRead -/

@[simp] theorem State.hostRead_pc (r : BitVec 8) (s : State) : (s.hostRead r).pc = s.pc := rfl

@[simp] theorem State.hostRead_cstate (r : BitVec 8) (s : State) : (s.hostRead r).cstate = s.cstate := rfl

@[simp] theorem State.hostRead_status (r : BitVec 8) (s : State) : (s.hostRead r).status = s.status := rfl

@[simp] theorem State.hostRead_result (r : BitVec 8) (s : State) : (s.hostRead r).result = s.result := rfl

@[simp] theorem State.hostRead_owner (r : BitVec 8) (s : State) : (s.hostRead r).owner = s.owner := rfl

@[simp] theorem State.hostRead_bus (r : BitVec 8) (s : State) : (s.hostRead r).bus = s.bus := rfl

@[simp] theorem State.hostRead_slots (r : BitVec 8) (s : State) : (s.hostRead r).slots = s.slots := rfl

@[simp] theorem State.hostRead_dir (r : BitVec 8) (s : State) : (s.hostRead r).dir = s.dir := rfl

@[simp] theorem State.hostRead_lvl (r : BitVec 8) (s : State) : (s.hostRead r).lvl = s.lvl := rfl

@[simp] theorem State.hostRead_dbuf (r : BitVec 8) (s : State) : (s.hostRead r).dbuf = s.dbuf := rfl

@[simp] theorem State.hostRead_trace (r : BitVec 8) (s : State) : (s.hostRead r).trace = s.trace := rfl

@[simp] theorem State.hostRead_fault (r : BitVec 8) (s : State) : (s.hostRead r).fault = s.fault := rfl

@[simp] theorem State.hostRead_params (r : BitVec 8) (s : State) : (s.hostRead r).params = s.params := rfl

@[simp] theorem State.hostRead_env (r : BitVec 8) (s : State) : (s.hostRead r).env = { s.env with received := s.env.received ++ [(r, s.regWord r)] } := rfl

@[simp] theorem State.hostRead_slot (m : SlotId) (r : BitVec 8) (s : State) : (s.hostRead r).slot m = s.slot m := rfl

/-! ### hostWriteBuf -/

@[simp] theorem State.hostWriteBuf_pc (a : BitVec 16) (b : Byte) (s : State) : (s.hostWriteBuf a b).pc = s.pc := rfl

@[simp] theorem State.hostWriteBuf_cstate (a : BitVec 16) (b : Byte) (s : State) : (s.hostWriteBuf a b).cstate = s.cstate := rfl

@[simp] theorem State.hostWriteBuf_status (a : BitVec 16) (b : Byte) (s : State) : (s.hostWriteBuf a b).status = s.status := rfl

@[simp] theorem State.hostWriteBuf_result (a : BitVec 16) (b : Byte) (s : State) : (s.hostWriteBuf a b).result = s.result := rfl

@[simp] theorem State.hostWriteBuf_owner (a : BitVec 16) (b : Byte) (s : State) : (s.hostWriteBuf a b).owner = s.owner := rfl

@[simp] theorem State.hostWriteBuf_bus (a : BitVec 16) (b : Byte) (s : State) : (s.hostWriteBuf a b).bus = s.bus := rfl

@[simp] theorem State.hostWriteBuf_slots (a : BitVec 16) (b : Byte) (s : State) : (s.hostWriteBuf a b).slots = s.slots := rfl

@[simp] theorem State.hostWriteBuf_dir (a : BitVec 16) (b : Byte) (s : State) : (s.hostWriteBuf a b).dir = s.dir := rfl

@[simp] theorem State.hostWriteBuf_lvl (a : BitVec 16) (b : Byte) (s : State) : (s.hostWriteBuf a b).lvl = s.lvl := rfl

@[simp] theorem State.hostWriteBuf_dbuf (a : BitVec 16) (b : Byte) (s : State) : (s.hostWriteBuf a b).dbuf = s.dbuf.write a b := rfl

@[simp] theorem State.hostWriteBuf_trace (a : BitVec 16) (b : Byte) (s : State) : (s.hostWriteBuf a b).trace = s.trace := rfl

@[simp] theorem State.hostWriteBuf_fault (a : BitVec 16) (b : Byte) (s : State) : (s.hostWriteBuf a b).fault = s.fault := rfl

@[simp] theorem State.hostWriteBuf_params (a : BitVec 16) (b : Byte) (s : State) : (s.hostWriteBuf a b).params = s.params := rfl

@[simp] theorem State.hostWriteBuf_env (a : BitVec 16) (b : Byte) (s : State) : (s.hostWriteBuf a b).env = s.env := rfl

@[simp] theorem State.hostWriteBuf_slot (m : SlotId) (a : BitVec 16) (b : Byte) (s : State) : (s.hostWriteBuf a b).slot m = s.slot m := rfl

/-! ### applyReset -/

@[simp] theorem State.applyReset_pc (s : State) : s.applyReset.pc = 0 := rfl

@[simp] theorem State.applyReset_cstate (s : State) : s.applyReset.cstate = .unconfigured := rfl

@[simp] theorem State.applyReset_status (s : State) : s.applyReset.status = Status.reset := rfl

@[simp] theorem State.applyReset_result (s : State) : s.applyReset.result = 0#16 := rfl

@[simp] theorem State.applyReset_owner (s : State) : s.applyReset.owner = none := rfl

@[simp] theorem State.applyReset_bus (s : State) : s.applyReset.bus = Bus.reset := rfl

@[simp] theorem State.applyReset_slots (s : State) : s.applyReset.slots = Vector.replicate 16 Slot.reset := rfl

@[simp] theorem State.applyReset_dir (s : State) : s.applyReset.dir = [] := rfl

@[simp] theorem State.applyReset_lvl (s : State) : s.applyReset.lvl = [] := rfl

@[simp] theorem State.applyReset_dbuf (s : State) : s.applyReset.dbuf = [] := rfl

@[simp] theorem State.applyReset_trace (s : State) : s.applyReset.trace = [] := rfl

@[simp] theorem State.applyReset_fault (s : State) : s.applyReset.fault = none := rfl

@[simp] theorem State.applyReset_params (s : State) : s.applyReset.params = s.params := rfl

@[simp] theorem State.applyReset_env (s : State) : s.applyReset.env = s.env := rfl

@[simp] theorem State.applyReset_slot (m : SlotId) (s : State) : s.applyReset.slot m = Slot.reset := by
  simp [State.slot]

/-! ### pinSetup -/

@[simp] theorem State.pinSetup_pc (p : PinId) (x : Dir) (s : State) : (s.pinSetup p x).pc = s.pc := by
  unfold State.pinSetup; split <;> rfl

@[simp] theorem State.pinSetup_cstate (p : PinId) (x : Dir) (s : State) : (s.pinSetup p x).cstate = s.cstate := by
  unfold State.pinSetup; split <;> rfl

@[simp] theorem State.pinSetup_status (p : PinId) (x : Dir) (s : State) : (s.pinSetup p x).status = s.status := by
  unfold State.pinSetup; split <;> rfl

@[simp] theorem State.pinSetup_result (p : PinId) (x : Dir) (s : State) : (s.pinSetup p x).result = s.result := by
  unfold State.pinSetup; split <;> rfl

@[simp] theorem State.pinSetup_owner (p : PinId) (x : Dir) (s : State) : (s.pinSetup p x).owner = s.owner := by
  unfold State.pinSetup; split <;> rfl

@[simp] theorem State.pinSetup_bus (p : PinId) (x : Dir) (s : State) : (s.pinSetup p x).bus = s.bus := by
  unfold State.pinSetup; split <;> rfl

@[simp] theorem State.pinSetup_slots (p : PinId) (x : Dir) (s : State) : (s.pinSetup p x).slots = s.slots := by
  unfold State.pinSetup; split <;> rfl

@[simp] theorem State.pinSetup_lvl (p : PinId) (x : Dir) (s : State) : (s.pinSetup p x).lvl = s.lvl := by
  unfold State.pinSetup; split <;> rfl

@[simp] theorem State.pinSetup_dbuf (p : PinId) (x : Dir) (s : State) : (s.pinSetup p x).dbuf = s.dbuf := by
  unfold State.pinSetup; split <;> rfl

@[simp] theorem State.pinSetup_fault (p : PinId) (x : Dir) (s : State) : (s.pinSetup p x).fault = s.fault := by
  unfold State.pinSetup; split <;> rfl

@[simp] theorem State.pinSetup_params (p : PinId) (x : Dir) (s : State) : (s.pinSetup p x).params = s.params := by
  unfold State.pinSetup; split <;> rfl

@[simp] theorem State.pinSetup_env (p : PinId) (x : Dir) (s : State) : (s.pinSetup p x).env = s.env := by
  unfold State.pinSetup; split <;> rfl

@[simp] theorem State.pinSetup_slot (m : SlotId) (p : PinId) (x : Dir) (s : State) : (s.pinSetup p x).slot m = s.slot m := by
  simp [State.slot]

/-! ### pinWrite -/

@[simp] theorem State.pinWrite_pc (p : PinId) (b : Level) (s : State) : (s.pinWrite p b).pc = s.pc := by
  unfold State.pinWrite; split <;> rfl

@[simp] theorem State.pinWrite_cstate (p : PinId) (b : Level) (s : State) : (s.pinWrite p b).cstate = s.cstate := by
  unfold State.pinWrite; split <;> rfl

@[simp] theorem State.pinWrite_status (p : PinId) (b : Level) (s : State) : (s.pinWrite p b).status = s.status := by
  unfold State.pinWrite; split <;> rfl

@[simp] theorem State.pinWrite_result (p : PinId) (b : Level) (s : State) : (s.pinWrite p b).result = s.result := by
  unfold State.pinWrite; split <;> rfl

@[simp] theorem State.pinWrite_owner (p : PinId) (b : Level) (s : State) : (s.pinWrite p b).owner = s.owner := by
  unfold State.pinWrite; split <;> rfl

@[simp] theorem State.pinWrite_bus (p : PinId) (b : Level) (s : State) : (s.pinWrite p b).bus = s.bus := by
  unfold State.pinWrite; split <;> rfl

@[simp] theorem State.pinWrite_slots (p : PinId) (b : Level) (s : State) : (s.pinWrite p b).slots = s.slots := by
  unfold State.pinWrite; split <;> rfl

@[simp] theorem State.pinWrite_dir (p : PinId) (b : Level) (s : State) : (s.pinWrite p b).dir = s.dir := by
  unfold State.pinWrite; split <;> rfl

@[simp] theorem State.pinWrite_dbuf (p : PinId) (b : Level) (s : State) : (s.pinWrite p b).dbuf = s.dbuf := by
  unfold State.pinWrite; split <;> rfl

@[simp] theorem State.pinWrite_fault (p : PinId) (b : Level) (s : State) : (s.pinWrite p b).fault = s.fault := by
  unfold State.pinWrite; split <;> rfl

@[simp] theorem State.pinWrite_params (p : PinId) (b : Level) (s : State) : (s.pinWrite p b).params = s.params := by
  unfold State.pinWrite; split <;> rfl

@[simp] theorem State.pinWrite_env (p : PinId) (b : Level) (s : State) : (s.pinWrite p b).env = s.env := by
  unfold State.pinWrite; split <;> rfl

@[simp] theorem State.pinWrite_slot (m : SlotId) (p : PinId) (b : Level) (s : State) : (s.pinWrite p b).slot m = s.slot m := by
  simp [State.slot]

/-! ### modeSelect -/

@[simp] theorem State.modeSelect_pc (d : SlotId) (b : Level) (s : State) : (s.modeSelect d b).pc = s.pc := by
  simp only [State.modeSelect, State.pinWrite_pc]

@[simp] theorem State.modeSelect_cstate (d : SlotId) (b : Level) (s : State) : (s.modeSelect d b).cstate = s.cstate := by
  simp only [State.modeSelect, State.pinWrite_cstate]

@[simp] theorem State.modeSelect_status (d : SlotId) (b : Level) (s : State) : (s.modeSelect d b).status = s.status := by
  simp only [State.modeSelect, State.pinWrite_status]

@[simp] theorem State.modeSelect_result (d : SlotId) (b : Level) (s : State) : (s.modeSelect d b).result = s.result := by
  simp only [State.modeSelect, State.pinWrite_result]

@[simp] theorem State.modeSelect_owner (d : SlotId) (b : Level) (s : State) : (s.modeSelect d b).owner = s.owner := by
  simp only [State.modeSelect, State.pinWrite_owner]

@[simp] theorem State.modeSelect_bus (d : SlotId) (b : Level) (s : State) : (s.modeSelect d b).bus = s.bus := by
  simp only [State.modeSelect, State.pinWrite_bus]

@[simp] theorem State.modeSelect_slots (d : SlotId) (b : Level) (s : State) : (s.modeSelect d b).slots = s.slots := by
  simp only [State.modeSelect, State.pinWrite_slots]

@[simp] theorem State.modeSelect_dir (d : SlotId) (b : Level) (s : State) : (s.modeSelect d b).dir = s.dir := by
  simp only [State.modeSelect, State.pinWrite_dir]

@[simp] theorem State.modeSelect_dbuf (d : SlotId) (b : Level) (s : State) : (s.modeSelect d b).dbuf = s.dbuf := by
  simp only [State.modeSelect, State.pinWrite_dbuf]

@[simp] theorem State.modeSelect_fault (d : SlotId) (b : Level) (s : State) : (s.modeSelect d b).fault = s.fault := by
  simp only [State.modeSelect, State.pinWrite_fault]

@[simp] theorem State.modeSelect_params (d : SlotId) (b : Level) (s : State) : (s.modeSelect d b).params = s.params := by
  simp only [State.modeSelect, State.pinWrite_params]

@[simp] theorem State.modeSelect_env (d : SlotId) (b : Level) (s : State) : (s.modeSelect d b).env = s.env := by
  simp only [State.modeSelect, State.pinWrite_env]

@[simp] theorem State.modeSelect_slot (m : SlotId) (d : SlotId) (b : Level) (s : State) : (s.modeSelect d b).slot m = s.slot m := by
  simp [State.slot]

/-! ### wait -/

@[simp] theorem State.wait_pc (timed : Bool) (s : State) : (s.wait timed).pc = s.pc := by
  unfold State.wait; split <;> rfl

@[simp] theorem State.wait_cstate (timed : Bool) (s : State) : (s.wait timed).cstate = s.cstate := by
  unfold State.wait; split <;> rfl

@[simp] theorem State.wait_status (timed : Bool) (s : State) : (s.wait timed).status = s.status := by
  unfold State.wait; split <;> rfl

@[simp] theorem State.wait_result (timed : Bool) (s : State) : (s.wait timed).result = s.result := by
  unfold State.wait; split <;> rfl

@[simp] theorem State.wait_owner (timed : Bool) (s : State) : (s.wait timed).owner = s.owner := by
  unfold State.wait; split <;> rfl

@[simp] theorem State.wait_bus (timed : Bool) (s : State) : (s.wait timed).bus = s.bus := by
  unfold State.wait; split <;> rfl

@[simp] theorem State.wait_slots (timed : Bool) (s : State) : (s.wait timed).slots = s.slots := by
  unfold State.wait; split <;> rfl

@[simp] theorem State.wait_dir (timed : Bool) (s : State) : (s.wait timed).dir = s.dir := by
  unfold State.wait; split <;> rfl

@[simp] theorem State.wait_lvl (timed : Bool) (s : State) : (s.wait timed).lvl = s.lvl := by
  unfold State.wait; split <;> rfl

@[simp] theorem State.wait_dbuf (timed : Bool) (s : State) : (s.wait timed).dbuf = s.dbuf := by
  unfold State.wait; split <;> rfl

@[simp] theorem State.wait_fault (timed : Bool) (s : State) : (s.wait timed).fault = s.fault := by
  unfold State.wait; split <;> rfl

@[simp] theorem State.wait_params (timed : Bool) (s : State) : (s.wait timed).params = s.params := by
  unfold State.wait; split <;> rfl

@[simp] theorem State.wait_env (timed : Bool) (s : State) : (s.wait timed).env = s.env := by
  unfold State.wait; split <;> rfl

@[simp] theorem State.wait_slot (m : SlotId) (timed : Bool) (s : State) : (s.wait timed).slot m = s.slot m := by
  simp [State.slot]

/-! ### notifyAlive -/

@[simp] theorem State.notifyAlive_pc (timed : Bool) (s : State) : (s.notifyAlive timed).pc = s.pc := by
  unfold State.notifyAlive; split <;> rfl

@[simp] theorem State.notifyAlive_cstate (timed : Bool) (s : State) : (s.notifyAlive timed).cstate = s.cstate := by
  unfold State.notifyAlive; split <;> rfl

@[simp] theorem State.notifyAlive_status (timed : Bool) (s : State) : (s.notifyAlive timed).status = s.status := by
  unfold State.notifyAlive; split <;> rfl

@[simp] theorem State.notifyAlive_result (timed : Bool) (s : State) : (s.notifyAlive timed).result = s.result := by
  unfold State.notifyAlive; split <;> rfl

@[simp] theorem State.notifyAlive_owner (timed : Bool) (s : State) : (s.notifyAlive timed).owner = s.owner := by
  unfold State.notifyAlive; split <;> rfl

@[simp] theorem State.notifyAlive_bus (timed : Bool) (s : State) : (s.notifyAlive timed).bus = s.bus := by
  unfold State.notifyAlive; split <;> rfl

@[simp] theorem State.notifyAlive_slots (timed : Bool) (s : State) : (s.notifyAlive timed).slots = s.slots := by
  unfold State.notifyAlive; split <;> rfl

@[simp] theorem State.notifyAlive_dir (timed : Bool) (s : State) : (s.notifyAlive timed).dir = s.dir := by
  unfold State.notifyAlive; split <;> rfl

@[simp] theorem State.notifyAlive_lvl (timed : Bool) (s : State) : (s.notifyAlive timed).lvl = s.lvl := by
  unfold State.notifyAlive; split <;> rfl

@[simp] theorem State.notifyAlive_dbuf (timed : Bool) (s : State) : (s.notifyAlive timed).dbuf = s.dbuf := by
  unfold State.notifyAlive; split <;> rfl

@[simp] theorem State.notifyAlive_fault (timed : Bool) (s : State) : (s.notifyAlive timed).fault = s.fault := by
  unfold State.notifyAlive; split <;> rfl

@[simp] theorem State.notifyAlive_params (timed : Bool) (s : State) : (s.notifyAlive timed).params = s.params := by
  unfold State.notifyAlive; split <;> rfl

@[simp] theorem State.notifyAlive_env (timed : Bool) (s : State) : (s.notifyAlive timed).env = s.env := by
  unfold State.notifyAlive; split <;> rfl

@[simp] theorem State.notifyAlive_slot (m : SlotId) (timed : Bool) (s : State) : (s.notifyAlive timed).slot m = s.slot m := by
  simp [State.slot]

/-! ### drawSdi -/

@[simp] theorem State.drawSdi_pc (s : State) : s.drawSdi.2.pc = s.pc := by
  unfold State.drawSdi; split <;> rfl

@[simp] theorem State.drawSdi_cstate (s : State) : s.drawSdi.2.cstate = s.cstate := by
  unfold State.drawSdi; split <;> rfl

@[simp] theorem State.drawSdi_status (s : State) : s.drawSdi.2.status = s.status := by
  unfold State.drawSdi; split <;> rfl

@[simp] theorem State.drawSdi_result (s : State) : s.drawSdi.2.result = s.result := by
  unfold State.drawSdi; split <;> rfl

@[simp] theorem State.drawSdi_owner (s : State) : s.drawSdi.2.owner = s.owner := by
  unfold State.drawSdi; split <;> rfl

@[simp] theorem State.drawSdi_bus (s : State) : s.drawSdi.2.bus = s.bus := by
  unfold State.drawSdi; split <;> rfl

@[simp] theorem State.drawSdi_slots (s : State) : s.drawSdi.2.slots = s.slots := by
  unfold State.drawSdi; split <;> rfl

@[simp] theorem State.drawSdi_dir (s : State) : s.drawSdi.2.dir = s.dir := by
  unfold State.drawSdi; split <;> rfl

@[simp] theorem State.drawSdi_lvl (s : State) : s.drawSdi.2.lvl = s.lvl := by
  unfold State.drawSdi; split <;> rfl

@[simp] theorem State.drawSdi_dbuf (s : State) : s.drawSdi.2.dbuf = s.dbuf := by
  unfold State.drawSdi; split <;> rfl

@[simp] theorem State.drawSdi_trace (s : State) : s.drawSdi.2.trace = s.trace := by
  unfold State.drawSdi; split <;> rfl

@[simp] theorem State.drawSdi_fault (s : State) : s.drawSdi.2.fault = s.fault := by
  unfold State.drawSdi; split <;> rfl

@[simp] theorem State.drawSdi_params (s : State) : s.drawSdi.2.params = s.params := by
  unfold State.drawSdi; split <;> rfl

@[simp] theorem State.drawSdi_slot (m : SlotId) (s : State) : s.drawSdi.2.slot m = s.slot m := by
  simp [State.slot]

/-! ### drawFactory -/

@[simp] theorem State.drawFactory_pc (iface : BitVec 8) (clk sdo sdi : PinId) (s : State) : (s.drawFactory iface clk sdo sdi).2.pc = s.pc := by
  unfold State.drawFactory; split <;> rfl

@[simp] theorem State.drawFactory_cstate (iface : BitVec 8) (clk sdo sdi : PinId) (s : State) : (s.drawFactory iface clk sdo sdi).2.cstate = s.cstate := by
  unfold State.drawFactory; split <;> rfl

@[simp] theorem State.drawFactory_status (iface : BitVec 8) (clk sdo sdi : PinId) (s : State) : (s.drawFactory iface clk sdo sdi).2.status = s.status := by
  unfold State.drawFactory; split <;> rfl

@[simp] theorem State.drawFactory_result (iface : BitVec 8) (clk sdo sdi : PinId) (s : State) : (s.drawFactory iface clk sdo sdi).2.result = s.result := by
  unfold State.drawFactory; split <;> rfl

@[simp] theorem State.drawFactory_owner (iface : BitVec 8) (clk sdo sdi : PinId) (s : State) : (s.drawFactory iface clk sdo sdi).2.owner = s.owner := by
  unfold State.drawFactory; split <;> rfl

@[simp] theorem State.drawFactory_bus (iface : BitVec 8) (clk sdo sdi : PinId) (s : State) : (s.drawFactory iface clk sdo sdi).2.bus = s.bus := by
  unfold State.drawFactory; split <;> rfl

@[simp] theorem State.drawFactory_slots (iface : BitVec 8) (clk sdo sdi : PinId) (s : State) : (s.drawFactory iface clk sdo sdi).2.slots = s.slots := by
  unfold State.drawFactory; split <;> rfl

@[simp] theorem State.drawFactory_dir (iface : BitVec 8) (clk sdo sdi : PinId) (s : State) : (s.drawFactory iface clk sdo sdi).2.dir = s.dir := by
  unfold State.drawFactory; split <;> rfl

@[simp] theorem State.drawFactory_lvl (iface : BitVec 8) (clk sdo sdi : PinId) (s : State) : (s.drawFactory iface clk sdo sdi).2.lvl = s.lvl := by
  unfold State.drawFactory; split <;> rfl

@[simp] theorem State.drawFactory_dbuf (iface : BitVec 8) (clk sdo sdi : PinId) (s : State) : (s.drawFactory iface clk sdo sdi).2.dbuf = s.dbuf := by
  unfold State.drawFactory; split <;> rfl

@[simp] theorem State.drawFactory_trace (iface : BitVec 8) (clk sdo sdi : PinId) (s : State) : (s.drawFactory iface clk sdo sdi).2.trace = s.trace := by
  unfold State.drawFactory; split <;> rfl

@[simp] theorem State.drawFactory_fault (iface : BitVec 8) (clk sdo sdi : PinId) (s : State) : (s.drawFactory iface clk sdo sdi).2.fault = s.fault := by
  unfold State.drawFactory; split <;> rfl

@[simp] theorem State.drawFactory_params (iface : BitVec 8) (clk sdo sdi : PinId) (s : State) : (s.drawFactory iface clk sdo sdi).2.params = s.params := by
  unfold State.drawFactory; split <;> rfl

@[simp] theorem State.drawFactory_slot (m : SlotId) (iface : BitVec 8) (clk sdo sdi : PinId) (s : State) : (s.drawFactory iface clk sdo sdi).2.slot m = s.slot m := by
  simp [State.slot]

/-! ### drawReady -/

@[simp] theorem State.drawReady_pc (d : SlotId) (s : State) : (s.drawReady d).2.pc = s.pc := by
  unfold State.drawReady; split <;> rfl

@[simp] theorem State.drawReady_cstate (d : SlotId) (s : State) : (s.drawReady d).2.cstate = s.cstate := by
  unfold State.drawReady; split <;> rfl

@[simp] theorem State.drawReady_status (d : SlotId) (s : State) : (s.drawReady d).2.status = s.status := by
  unfold State.drawReady; split <;> rfl

@[simp] theorem State.drawReady_result (d : SlotId) (s : State) : (s.drawReady d).2.result = s.result := by
  unfold State.drawReady; split <;> rfl

@[simp] theorem State.drawReady_owner (d : SlotId) (s : State) : (s.drawReady d).2.owner = s.owner := by
  unfold State.drawReady; split <;> rfl

@[simp] theorem State.drawReady_bus (d : SlotId) (s : State) : (s.drawReady d).2.bus = s.bus := by
  unfold State.drawReady; split <;> rfl

@[simp] theorem State.drawReady_slots (d : SlotId) (s : State) : (s.drawReady d).2.slots = s.slots := by
  unfold State.drawReady; split <;> rfl

@[simp] theorem State.drawReady_dir (d : SlotId) (s : State) : (s.drawReady d).2.dir = s.dir := by
  unfold State.drawReady; split <;> rfl

@[simp] theorem State.drawReady_lvl (d : SlotId) (s : State) : (s.drawReady d).2.lvl = s.lvl := by
  unfold State.drawReady; split <;> rfl

@[simp] theorem State.drawReady_dbuf (d : SlotId) (s : State) : (s.drawReady d).2.dbuf = s.dbuf := by
  unfold State.drawReady; split <;> rfl

@[simp] theorem State.drawReady_trace (d : SlotId) (s : State) : (s.drawReady d).2.trace = s.trace := by
  unfold State.drawReady; split <;> rfl

@[simp] theorem State.drawReady_fault (d : SlotId) (s : State) : (s.drawReady d).2.fault = s.fault := by
  unfold State.drawReady; split <;> rfl

@[simp] theorem State.drawReady_params (d : SlotId) (s : State) : (s.drawReady d).2.params = s.params := by
  unfold State.drawReady; split <;> rfl

@[simp] theorem State.drawReady_slot (m : SlotId) (d : SlotId) (s : State) : (s.drawReady d).2.slot m = s.slot m := by
  simp [State.slot]

/-! ### pinRead -/

@[simp] theorem State.pinRead_pc (p : PinId) (s : State) : (s.pinRead p).2.pc = s.pc := by
  unfold State.pinRead; split <;> simp

@[simp] theorem State.pinRead_cstate (p : PinId) (s : State) : (s.pinRead p).2.cstate = s.cstate := by
  unfold State.pinRead; split <;> simp

@[simp] theorem State.pinRead_status (p : PinId) (s : State) : (s.pinRead p).2.status = s.status := by
  unfold State.pinRead; split <;> simp

@[simp] theorem State.pinRead_result (p : PinId) (s : State) : (s.pinRead p).2.result = s.result := by
  unfold State.pinRead; split <;> simp

@[simp] theorem State.pinRead_owner (p : PinId) (s : State) : (s.pinRead p).2.owner = s.owner := by
  unfold State.pinRead; split <;> simp

@[simp] theorem State.pinRead_bus (p : PinId) (s : State) : (s.pinRead p).2.bus = s.bus := by
  unfold State.pinRead; split <;> simp

@[simp] theorem State.pinRead_slots (p : PinId) (s : State) : (s.pinRead p).2.slots = s.slots := by
  unfold State.pinRead; split <;> simp

@[simp] theorem State.pinRead_dir (p : PinId) (s : State) : (s.pinRead p).2.dir = s.dir := by
  unfold State.pinRead; split <;> simp

@[simp] theorem State.pinRead_lvl (p : PinId) (s : State) : (s.pinRead p).2.lvl = s.lvl := by
  unfold State.pinRead; split <;> simp

@[simp] theorem State.pinRead_dbuf (p : PinId) (s : State) : (s.pinRead p).2.dbuf = s.dbuf := by
  unfold State.pinRead; split <;> simp

@[simp] theorem State.pinRead_fault (p : PinId) (s : State) : (s.pinRead p).2.fault = s.fault := by
  unfold State.pinRead; split <;> simp

@[simp] theorem State.pinRead_params (p : PinId) (s : State) : (s.pinRead p).2.params = s.params := by
  unfold State.pinRead; split <;> simp

@[simp] theorem State.pinRead_slot (m : SlotId) (p : PinId) (s : State) : (s.pinRead p).2.slot m = s.slot m := by
  simp [State.slot]

/-! ### releaseBus -/

/-- The chip-select is deasserted and the bus released if slot `d` holds it (R181, R184). -/
theorem State.releaseBus_eq (d : SlotId) (s : State) :
    s.releaseBus d = { s.pinWrite (s.slot d).cs s.csIdle with owner := if s.owner = some d then none else s.owner } := by
  simp only [State.releaseBus, State.pinWrite_owner]; split <;> simp [State.ext_iff, *]

@[simp] theorem State.releaseBus_pc (d : SlotId) (s : State) : (s.releaseBus d).pc = s.pc := by
  rw [State.releaseBus_eq]; simp

@[simp] theorem State.releaseBus_cstate (d : SlotId) (s : State) : (s.releaseBus d).cstate = s.cstate := by
  rw [State.releaseBus_eq]; simp

@[simp] theorem State.releaseBus_status (d : SlotId) (s : State) : (s.releaseBus d).status = s.status := by
  rw [State.releaseBus_eq]; simp

@[simp] theorem State.releaseBus_result (d : SlotId) (s : State) : (s.releaseBus d).result = s.result := by
  rw [State.releaseBus_eq]; simp

@[simp] theorem State.releaseBus_bus (d : SlotId) (s : State) : (s.releaseBus d).bus = s.bus := by
  rw [State.releaseBus_eq]; simp

@[simp] theorem State.releaseBus_slots (d : SlotId) (s : State) : (s.releaseBus d).slots = s.slots := by
  rw [State.releaseBus_eq]; simp

@[simp] theorem State.releaseBus_dir (d : SlotId) (s : State) : (s.releaseBus d).dir = s.dir := by
  rw [State.releaseBus_eq]; simp

@[simp] theorem State.releaseBus_dbuf (d : SlotId) (s : State) : (s.releaseBus d).dbuf = s.dbuf := by
  rw [State.releaseBus_eq]; simp

@[simp] theorem State.releaseBus_fault (d : SlotId) (s : State) : (s.releaseBus d).fault = s.fault := by
  rw [State.releaseBus_eq]; simp

@[simp] theorem State.releaseBus_params (d : SlotId) (s : State) : (s.releaseBus d).params = s.params := by
  rw [State.releaseBus_eq]; simp

@[simp] theorem State.releaseBus_env (d : SlotId) (s : State) : (s.releaseBus d).env = s.env := by
  rw [State.releaseBus_eq]; simp

@[simp] theorem State.releaseBus_slot (m : SlotId) (d : SlotId) (s : State) : (s.releaseBus d).slot m = s.slot m := by
  simp [State.slot]

/-! ### hostWrite -/

@[simp] theorem State.hostWrite_pc (r : BitVec 8) (m : RegWord) (s : State) : (s.hostWrite r m).pc = s.pc := by
  unfold State.hostWrite; split <;> rfl

@[simp] theorem State.hostWrite_cstate (r : BitVec 8) (m : RegWord) (s : State) : (s.hostWrite r m).cstate = s.cstate := by
  unfold State.hostWrite; split <;> rfl

@[simp] theorem State.hostWrite_result (r : BitVec 8) (m : RegWord) (s : State) : (s.hostWrite r m).result = s.result := by
  unfold State.hostWrite; split <;> rfl

@[simp] theorem State.hostWrite_owner (r : BitVec 8) (m : RegWord) (s : State) : (s.hostWrite r m).owner = s.owner := by
  unfold State.hostWrite; split <;> rfl

@[simp] theorem State.hostWrite_bus (r : BitVec 8) (m : RegWord) (s : State) : (s.hostWrite r m).bus = s.bus := by
  unfold State.hostWrite; split <;> rfl

@[simp] theorem State.hostWrite_slots (r : BitVec 8) (m : RegWord) (s : State) : (s.hostWrite r m).slots = s.slots := by
  unfold State.hostWrite; split <;> rfl

@[simp] theorem State.hostWrite_dir (r : BitVec 8) (m : RegWord) (s : State) : (s.hostWrite r m).dir = s.dir := by
  unfold State.hostWrite; split <;> rfl

@[simp] theorem State.hostWrite_lvl (r : BitVec 8) (m : RegWord) (s : State) : (s.hostWrite r m).lvl = s.lvl := by
  unfold State.hostWrite; split <;> rfl

@[simp] theorem State.hostWrite_dbuf (r : BitVec 8) (m : RegWord) (s : State) : (s.hostWrite r m).dbuf = s.dbuf := by
  unfold State.hostWrite; split <;> rfl

@[simp] theorem State.hostWrite_trace (r : BitVec 8) (m : RegWord) (s : State) : (s.hostWrite r m).trace = s.trace := by
  unfold State.hostWrite; split <;> rfl

@[simp] theorem State.hostWrite_fault (r : BitVec 8) (m : RegWord) (s : State) : (s.hostWrite r m).fault = s.fault := by
  unfold State.hostWrite; split <;> rfl

@[simp] theorem State.hostWrite_params (r : BitVec 8) (m : RegWord) (s : State) : (s.hostWrite r m).params = s.params := by
  unfold State.hostWrite; split <;> rfl

@[simp] theorem State.hostWrite_env (r : BitVec 8) (m : RegWord) (s : State) : (s.hostWrite r m).env = s.env := by
  unfold State.hostWrite; split <;> rfl

@[simp] theorem State.hostWrite_slot (d : SlotId) (r : BitVec 8) (m : RegWord) (s : State) :
    (s.hostWrite r m).slot d = s.slot d := by
  simp [State.slot]

/-! ### Levels that are complements -/

@[simp] theorem State.csIdle_eq (s : State) : s.csIdle = !s.params.csActive := rfl

@[simp] theorem State.dcData_eq (s : State) : s.dcData = !s.params.dcCommand := rfl

end Sys2Proof.Machine
end

