-- ==== Sys2Proof/Laws/Ops.lean ====
section
/-!
SUPPORT. What each shared operation does: the events it records, and one inversion lemma for each operation that may fault.
-/

namespace Sys2Proof.Machine

/-! ### Outcomes -/

@[simp] theorem andThen_next (s : State) (f : State → Result) : andThen (.next s) f = f s := rfl

@[simp] theorem andThen_fault (x : Fault) (f : State → Result) : andThen (.fault x) f = .fault x := rfl

@[simp] theorem andThen_raise (k : FaultKind) (s : State) (f : State → Result) : andThen (raise k s) f = raise k s := rfl

/-- A sequence answers a next state exactly when its parts do. -/
theorem andThen_eq_next {r : Result} {f : State → Result} {t : State} :
    andThen r f = .next t ↔ ∃ u, r = .next u ∧ f u = .next t := by
  cases r <;> simp [andThen]

/-- A sequence faults in its first part or in its second. -/
theorem andThen_eq_fault {r : Result} {f : State → Result} {x : Fault} :
    andThen r f = .fault x ↔ r = .fault x ∨ ∃ u, r = .next u ∧ f u = .fault x := by
  cases r <;> simp [andThen]

/-- A sequence is refused in its first part or in its second. -/
theorem andThen_eq_refused {r : Result} {f : State → Result} {x : Refusal} :
    andThen r f = .refused x ↔ r = .refused x ∨ ∃ u, r = .next u ∧ f u = .refused x := by
  cases r <;> simp [andThen]

theorem andThen_assoc (r : Result) (f g : State → Result) :
    andThen (andThen r f) g = andThen r (fun s => andThen (f s) g) := by
  cases r <;> rfl

@[simp] theorem complete_eq (s : State) : complete s = .next s.advance := rfl

@[simp] theorem raise_ne_next (k : FaultKind) (s t : State) : raise k s ≠ .next t := by simp [raise]

@[simp] theorem raise_ne_refused (k : FaultKind) (s : State) (x : Refusal) : raise k s ≠ .refused x := by simp [raise]

/-- A fault raised is the fault of its kind at the state with the mark set (R236). -/
theorem raise_eq_faultAt (k : FaultKind) (s : State) : raise k s = faultAt k s := rfl

theorem raise_eq_fault {k : FaultKind} {s : State} {x : Fault} :
    raise k s = .fault x ↔ x = Fault.of k { s with fault := some k } := by
  simp [raise, eq_comm]

@[simp] theorem Fault.final_of (k : FaultKind) (s : State) : (Fault.of k s).final = s := by cases k <;> rfl

@[simp] theorem Fault.kind_of (k : FaultKind) (s : State) : (Fault.of k s).kind = k := by cases k <;> rfl

/-! ### Events and what they leave behind -/

theorem levelAfter_append (q : PinId) (es fs : List Event) (o : Option Level) :
    levelAfter q (es ++ fs) o = levelAfter q fs (levelAfter q es o) := by
  induction es generalizing o with
  | nil => rfl
  | cons e es ih => cases e <;> simp [levelAfter, ih]

theorem dirAfter_append (q : PinId) (es fs : List Event) (o : Option Dir) :
    dirAfter q (es ++ fs) o = dirAfter q fs (dirAfter q es o) := by
  induction es generalizing o with
  | nil => rfl
  | cons e es ih => cases e <;> simp [dirAfter, ih]

theorem lastReport_append (es fs : List Event) (o : Option ErrCode) :
    lastReport (es ++ fs) o = lastReport fs (lastReport es o) := by
  induction es generalizing o with
  | nil => rfl
  | cons e es ih => cases e <;> simp [lastReport, ih]

@[simp] theorem levelAfter_writeEvent (q p : PinId) (b : Level) (o : Option Level) :
    levelAfter q (writeEvent p b) o = if p = q ∧ p ≠ noPin then some b else o := by
  unfold writeEvent; split <;> simp_all [levelAfter]

@[simp] theorem levelAfter_readEvent (q p : PinId) (b : Level) (o : Option Level) :
    levelAfter q (readEvent p b) o = o := by
  unfold readEvent; split <;> rfl

@[simp] theorem levelAfter_setupEvent (q p : PinId) (d : Dir) (o : Option Level) :
    levelAfter q (setupEvent p d) o = o := by
  unfold setupEvent; split <;> rfl

@[simp] theorem dirAfter_writeEvent (q p : PinId) (b : Level) (o : Option Dir) :
    dirAfter q (writeEvent p b) o = o := by
  unfold writeEvent; split <;> rfl

@[simp] theorem dirAfter_setupEvent (q p : PinId) (d : Dir) (o : Option Dir) :
    dirAfter q (setupEvent p d) o = if p = q ∧ p ≠ noPin then some d else o := by
  unfold setupEvent; split <;> simp_all [dirAfter]

@[simp] theorem dirAfter_readEvent (q p : PinId) (b : Level) (o : Option Dir) :
    dirAfter q (readEvent p b) o = o := by
  unfold readEvent; split <;> rfl

@[simp] theorem lastReport_writeEvent (p : PinId) (b : Level) (o : Option ErrCode) :
    lastReport (writeEvent p b) o = o := by
  unfold writeEvent; split <;> rfl

@[simp] theorem lastReport_readEvent (p : PinId) (b : Level) (o : Option ErrCode) :
    lastReport (readEvent p b) o = o := by
  unfold readEvent; split <;> rfl

@[simp] theorem lastReport_setupEvent (p : PinId) (d : Dir) (o : Option ErrCode) :
    lastReport (setupEvent p d) o = o := by
  unfold setupEvent; split <;> rfl

@[simp] theorem levelAfter_timedEvent_half (q : PinId) (timed : Bool) (o : Option Level) :
    levelAfter q (timedEvent timed .half) o = o := by
  cases timed <;> rfl

@[simp] theorem levelAfter_timedEvent_alive (q : PinId) (timed : Bool) (o : Option Level) :
    levelAfter q (timedEvent timed .alive) o = o := by
  cases timed <;> rfl

@[simp] theorem dirAfter_timedEvent_half (q : PinId) (timed : Bool) (o : Option Dir) :
    dirAfter q (timedEvent timed .half) o = o := by
  cases timed <;> rfl

@[simp] theorem dirAfter_timedEvent_alive (q : PinId) (timed : Bool) (o : Option Dir) :
    dirAfter q (timedEvent timed .alive) o = o := by
  cases timed <;> rfl

@[simp] theorem lastReport_timedEvent_half (timed : Bool) (o : Option ErrCode) :
    lastReport (timedEvent timed .half) o = o := by
  cases timed <;> rfl

@[simp] theorem lastReport_timedEvent_alive (timed : Bool) (o : Option ErrCode) :
    lastReport (timedEvent timed .alive) o = o := by
  cases timed <;> rfl

/-! ### Records -/

/-- No event is recorded between states with the same trace, levels and directions. -/
theorem Records.refl {s t : State} (ht : t.trace = s.trace) (hl : t.lvl = s.lvl) (hd : t.dir = s.dir) :
    Records s t [] :=
  ⟨by simp [ht], fun _ => by simp [State.level, levelAfter, hl], fun _ => by simp [State.direction, dirAfter, hd]⟩

/-- The events of two runs follow each other. -/
theorem Records.trans {s t u : State} {es fs : List Event} (h : Records s t es) (g : Records t u fs) :
    Records s u (es ++ fs) :=
  ⟨by simp [g.trace, h.trace], fun q => by rw [g.level, h.level, levelAfter_append],
    fun q => by rw [g.direction, h.direction, dirAfter_append]⟩

/-- Records looks at the trace, the levels and the directions of the first state only. -/
theorem Records.left {s s' t : State} {es : List Event} (h : Records s t es) (ht : s.trace = s'.trace)
    (hl : s.lvl = s'.lvl) (hd : s.dir = s'.dir) : Records s' t es :=
  ⟨by rw [h.trace, ht], fun q => by rw [h.level]; simp only [State.level, hl],
    fun q => by rw [h.direction]; simp only [State.direction, hd]⟩

/-- Records looks at the trace, the levels and the directions of the second state only. -/
theorem Records.right {s t t' : State} {es : List Event} (h : Records s t es) (ht : t'.trace = t.trace)
    (hl : t'.lvl = t.lvl) (hd : t'.dir = t.dir) : Records s t' es :=
  ⟨by rw [ht, h.trace], fun q => by rw [← h.level]; simp only [State.level, hl],
    fun q => by rw [← h.direction]; simp only [State.direction, hd]⟩

/-! ### The pin operations -/

theorem toNat_ne {p q : PinId} (h : p ≠ q) : p.toNat ≠ q.toNat := fun h' => h (BitVec.eq_of_toNat_eq h')

theorem State.pinWrite_trace (p : PinId) (b : Level) (s : State) :
    (s.pinWrite p b).trace = s.trace ++ writeEvent p b := by
  unfold State.pinWrite writeEvent; split <;> simp [State.emit]

theorem State.pinWrite_level (p : PinId) (b : Level) (s : State) (q : PinId) :
    (s.pinWrite p b).level q = if p = q ∧ p ≠ noPin then some b else s.level q := by
  unfold State.pinWrite State.level
  split
  · simp_all
  · rename_i h
    by_cases hq : p = q
    · subst hq; simp [State.emit, h]
    · simp [State.emit, hq, toNat_ne hq]

theorem State.pinSetup_trace (p : PinId) (d : Dir) (s : State) :
    (s.pinSetup p d).trace = s.trace ++ setupEvent p d := by
  unfold State.pinSetup setupEvent; split <;> simp [State.emit]

theorem State.pinSetup_direction (p : PinId) (d : Dir) (s : State) (q : PinId) :
    (s.pinSetup p d).direction q = if p = q ∧ p ≠ noPin then some d else s.direction q := by
  unfold State.pinSetup State.direction
  split
  · simp_all
  · rename_i h
    by_cases hq : p = q
    · subst hq; simp [State.emit, h]
    · simp [State.emit, hq, toNat_ne hq]

/-- `PinWrite` records its event (R64). -/
theorem State.pinWrite_records (p : PinId) (b : Level) (s : State) : Records s (s.pinWrite p b) (writeEvent p b) :=
  ⟨s.pinWrite_trace p b, fun q => by rw [s.pinWrite_level, levelAfter_writeEvent],
    fun q => by rw [dirAfter_writeEvent]; simp [State.direction]⟩

/-- `PinSetup` records its event (R63). -/
theorem State.pinSetup_records (p : PinId) (d : Dir) (s : State) : Records s (s.pinSetup p d) (setupEvent p d) :=
  ⟨s.pinSetup_trace p d, fun q => by rw [levelAfter_setupEvent]; simp [State.level], fun q => by
    rw [s.pinSetup_direction, dirAfter_setupEvent]⟩

/-- An event that drives no pin is recorded by appending it. -/
theorem State.emit_records (e : Event) (s : State) (hl : ∀ q o, levelAfter q [e] o = o)
    (hd : ∀ q o, dirAfter q [e] o = o) : Records s (s.emit e) [e] :=
  ⟨rfl, fun q => (hl q _).symm, fun q => (hd q _).symm⟩

/-- `Report` records its event (R232). -/
theorem State.report_records (c : ErrCode) (s : State) : Records s (s.report c) [.err c] :=
  ⟨rfl, fun _ => rfl, fun _ => rfl⟩

/-- A wait is recorded where the engine is timed (R141, R172). -/
theorem State.wait_records (timed : Bool) (s : State) : Records s (s.wait timed) (timedEvent timed .half) := by
  cases timed
  · exact Records.refl rfl rfl rfl
  · exact s.emit_records _ (fun _ _ => rfl) (fun _ _ => rfl)

/-- A notification is recorded where the engine is timed (R142, R172). -/
theorem State.notifyAlive_records (timed : Bool) (s : State) :
    Records s (s.notifyAlive timed) (timedEvent timed .alive) := by
  cases timed
  · exact Records.refl rfl rfl rfl
  · exact s.emit_records _ (fun _ _ => rfl) (fun _ _ => rfl)

/-! ### Samples -/

theorem Env.sdiAt_zero (e : Env) :
    e.sdiAt 0 = match e.sdi with | b :: _ => b | [] => Config.sdiDraw e.drawn := by
  unfold Env.sdiAt; cases e.sdi <;> simp

/-- A draw gives the next answer and moves on by one (R65). -/
theorem State.drawSdi_eq (s : State) : s.drawSdi = (s.env.sdiAt 0, { s with env := s.env.afterSdi 1 }) := by
  unfold State.drawSdi Env.sdiAt Env.afterSdi
  split <;> rename_i h <;> simp [h]

@[simp] theorem Env.afterSdi_zero (e : Env) : e.afterSdi 0 = e := by
  simp [Env.afterSdi]

theorem Env.afterSdi_afterSdi (e : Env) (i j : Nat) : (e.afterSdi i).afterSdi j = e.afterSdi (i + j) := by
  simp only [Env.afterSdi, List.drop_drop, List.length_drop, Env.mk.injEq, true_and]
  omega

theorem Env.sdiAt_afterSdi (e : Env) (i j : Nat) : (e.afterSdi i).sdiAt j = e.sdiAt (i + j) := by
  simp only [Env.sdiAt, Env.afterSdi, List.getElem?_drop, List.length_drop]
  split
  · rfl
  · rename_i h
    have := List.getElem?_eq_none_iff.mp h
    congr 1; omega

/-- `PinRead` of the data-in line gives the next sample and takes its answer (R65, R66). -/
theorem State.pinRead_sdi (s : State) :
    s.pinRead s.bus.sdi =
      (s.sample 0, { s with env := s.envAfterSamples 1, trace := s.trace ++ readEvent s.bus.sdi (s.sample 0) }) := by
  unfold State.pinRead State.sample State.envAfterSamples readEvent
  split
  · simp
  · simp [State.drawSdi_eq, State.emit]

/-! ### Other answers, the bracket and the owner -/

/-- A request to the hardware bus factory takes its next answer and nothing else (R112). -/
theorem State.drawFactory_eq (iface : BitVec 8) (clk sdo sdi : PinId) (s : State) :
    s.drawFactory iface clk sdo sdi = (s.factoryAnswer iface clk sdo sdi, { s with env := s.env.afterFactory }) := by
  unfold State.drawFactory State.factoryAnswer Env.afterFactory
  split <;> rename_i h <;> simp [h]

/-- A readiness question takes its next answer and nothing else (R130). -/
theorem State.drawReady_eq (d : SlotId) (s : State) :
    s.drawReady d = (s.readyAnswer d, { s with env := s.env.afterReady }) := by
  unfold State.drawReady State.readyAnswer Env.afterReady
  split <;> rename_i h <;> simp [h]

/-- `RequireOwner` lets the owner pass and faults otherwise (R177). -/
theorem requireOwner_eq (d : SlotId) (s : State) :
    requireOwner d s = if s.owner = some d then .next s else raise .transferOutsideTxn s := rfl

/-- Taking the bus: all that can happen (R179, R180). -/
theorem takeBus_cases (d : SlotId) (s : State) :
    (s.owner = none ∧ takeBus d s = .next ({ s with owner := some d }.pinWrite (s.slot d).cs s.params.csActive)) ∨
    (s.owner = some d ∧ takeBus d s = raise .nestedBegin s) ∨
    (∃ o, s.owner = some o ∧ o ≠ d ∧ takeBus d s = raise .busBusy s) := by
  unfold takeBus
  cases h : s.owner with
  | none => simp
  | some o => by_cases ho : o = d <;> simp [ho]

/-- `BeginStep` on a registered slot takes the bus. -/
theorem beginStep_registered {d : SlotId} {s : State} (h : (s.slot d).kind ≠ .null) : beginStep d s = takeBus d s := by
  unfold beginStep; split <;> simp_all

/-- `BeginStep` on a NULL slot reports (R174). -/
theorem beginStep_null {d : SlotId} {s : State} (h : (s.slot d).kind = .null) :
    beginStep d s = .next s.nullReport := by
  unfold beginStep; simp [h]

/-- `EndStep` on a registered slot releases the bus. -/
theorem endStep_registered {d : SlotId} {s : State} (h : (s.slot d).kind ≠ .null) :
    endStep d s = .next (s.releaseBus d) := by
  unfold endStep; split <;> simp_all

/-- `EndStep` on a NULL slot reports (R174). -/
theorem endStep_null {d : SlotId} {s : State} (h : (s.slot d).kind = .null) : endStep d s = .next s.nullReport := by
  unfold endStep; simp [h]

/-- Releasing the bus records the chip-select write (R184). -/
theorem State.releaseBus_records (d : SlotId) (s : State) :
    Records s (s.releaseBus d) (writeEvent (s.slot d).cs s.csIdle) := by
  rw [State.releaseBus_eq]
  exact (s.pinWrite_records _ _).right rfl rfl rfl

/-! ### Pins with a role -/

theorem mem_realPins {p : PinId} {ps : List PinId} : p ∈ realPins ps ↔ p ∈ ps ∧ p ≠ noPin := by
  simp [realPins]

theorem State.mem_busPins {s : State} {p : PinId} :
    p ∈ s.busPins ↔ (p = s.bus.clk ∨ p = s.bus.sdo ∨ p = s.bus.sdi) ∧ p ≠ noPin := by
  simp [State.busPins, mem_realPins]

theorem State.mem_csPins {s : State} {p : PinId} :
    p ∈ s.csPins ↔ (∃ m, (s.slot m).kind ≠ .null ∧ (s.slot m).cs = p) ∧ p ≠ noPin := by
  simp [State.csPins, mem_realPins]

theorem State.mem_dcPins {s : State} {p : PinId} {x : Option SlotId} :
    p ∈ s.dcPins x ↔ (∃ m, some m ≠ x ∧ (s.slot m).dc = p) ∧ p ≠ noPin := by
  simp [State.dcPins, mem_realPins]

theorem samePin_iff {p q : PinId} : samePin p q = true ↔ ¬ apart p q := by
  simp only [samePin, Bool.and_eq_true, decide_eq_true_eq, apart]; tauto

/-- SETUP's PIN_ALIAS condition is that its pins are not free (R112). -/
theorem State.setupAlias_iff {s : State} {clk sdo sdi : PinId} :
    s.setupAlias clk sdo sdi = true ↔ ¬ busPinsFree s clk sdo sdi := by
  simp only [State.setupAlias, Bool.or_eq_true, samePin_iff, List.any_eq_true, mem_realPins, decide_eq_true_eq,
    State.mem_dcPins, busPinsFree]
  constructor
  · rintro (((h | h) | h) | ⟨p, ⟨hp, hn⟩, ⟨m, -, hm⟩, -⟩) ⟨h1, h2, h3, h4⟩
    · exact h h1
    · exact h h2
    · exact h h3
    · have := h4 m
      simp only [List.mem_cons, List.not_mem_nil, or_false] at hp
      rcases hp with rfl | rfl | rfl
      · exact hn (this.1 hm.symm)
      · exact hn (this.2.1 hm.symm)
      · exact hn (this.2.2 hm.symm)
  · intro h
    by_contra hc
    apply h
    simp only [not_or, not_exists, not_and] at hc
    obtain ⟨⟨⟨h1, h2⟩, h3⟩, h4⟩ := hc
    refine ⟨not_not.mp h1, not_not.mp h2, not_not.mp h3, fun m => ⟨?_, ?_, ?_⟩⟩ <;> intro hm <;> by_contra hn
    · exact h4 clk ⟨by simp, hn⟩ ⟨m, by simp, hm.symm⟩ hn
    · exact h4 sdo ⟨by simp, hn⟩ ⟨m, by simp, hm.symm⟩ hn
    · exact h4 sdi ⟨by simp, hn⟩ ⟨m, by simp, hm.symm⟩ hn

/-- REGISTER's PIN_ALIAS condition (R118). -/
theorem State.registerAlias_iff {s : State} {cs : PinId} :
    s.registerAlias cs = true ↔ ¬ (offBusAndCs s cs ∧ ∀ m, apart cs (s.slot m).dc) := by
  simp only [State.registerAlias, Bool.and_eq_true, Bool.or_eq_true, decide_eq_true_eq, State.mem_busPins,
    State.mem_csPins, State.mem_dcPins, offBusAndCs, apart]
  constructor
  · rintro ⟨hn, ((⟨h, -⟩ | ⟨⟨m, hk, hm⟩, -⟩) | ⟨⟨m, -, hm⟩, -⟩)⟩ ⟨⟨h1, h2, h3, h4⟩, h5⟩
    · rcases h with h | h | h
      · exact hn (h1 h)
      · exact hn (h2 h)
      · exact hn (h3 h)
    · exact hn (h4 m hk hm.symm)
    · exact hn (h5 m hm.symm)
  · intro h
    by_cases hn : cs = noPin
    · exact absurd ⟨⟨fun _ => hn, fun _ => hn, fun _ => hn, fun _ _ _ => hn⟩, fun _ _ => hn⟩ h
    · refine ⟨hn, ?_⟩
      by_contra hc
      simp only [not_or, not_and, not_not] at hc
      obtain ⟨⟨h1, h2⟩, h3⟩ := hc
      exact h ⟨⟨fun e => h1 (.inl e), fun e => h1 (.inr (.inl e)), fun e => h1 (.inr (.inr e)),
        fun m hk e => h2 ⟨m, hk, e.symm⟩⟩, fun m e => h3 ⟨m, by simp, e.symm⟩⟩

/-- SET_DC's PIN_ALIAS condition (R127). -/
theorem State.dcAlias_iff {s : State} {d : SlotId} {dc : PinId} :
    s.dcAlias d dc = true ↔ ¬ (offBusAndCs s dc ∧ ∀ m, m ≠ d → apart dc (s.slot m).dc) := by
  simp only [State.dcAlias, Bool.and_eq_true, Bool.or_eq_true, decide_eq_true_eq, State.mem_busPins,
    State.mem_csPins, State.mem_dcPins, offBusAndCs, apart]
  constructor
  · rintro ⟨hn, ((⟨h, -⟩ | ⟨⟨m, hk, hm⟩, -⟩) | ⟨⟨m, hd, hm⟩, -⟩)⟩ ⟨⟨h1, h2, h3, h4⟩, h5⟩
    · rcases h with h | h | h
      · exact hn (h1 h)
      · exact hn (h2 h)
      · exact hn (h3 h)
    · exact hn (h4 m hk hm.symm)
    · exact hn (h5 m (fun e => hd (by simp [e])) hm.symm)
  · intro h
    by_cases hn : dc = noPin
    · exact absurd ⟨⟨fun _ => hn, fun _ => hn, fun _ => hn, fun _ _ _ => hn⟩, fun _ _ _ => hn⟩ h
    · refine ⟨hn, ?_⟩
      by_contra hc
      simp only [not_or, not_and, not_not] at hc
      obtain ⟨⟨h1, h2⟩, h3⟩ := hc
      exact h ⟨⟨fun e => h1 (.inl e), fun e => h1 (.inr (.inl e)), fun e => h1 (.inr (.inr e)),
        fun m hk e => h2 ⟨m, hk, e.symm⟩⟩, fun m hd e => h3 ⟨m, by simpa using hd, e.symm⟩⟩

end Sys2Proof.Machine
end

