-- ==== Sys2Proof/Laws/Engine.lean ====
section
/-!
SUPPORT. The mode engine (R143, R172): its events, its value and its frame, once for both engines.
-/

namespace Sys2Proof.Machine

/-- `t` differs from `s` at most in trace and levels, and by `j` samples taken. -/
def Sampled (s : State) (j : Nat) (t : State) : Prop :=
  t = { s with env := s.envAfterSamples j, trace := t.trace, lvl := t.lvl }

theorem State.envAfterSamples_zero (s : State) : s.envAfterSamples 0 = s.env := by
  simp [State.envAfterSamples]

/-- The samples to come depend on the data-in pin, the parameters and the environment only. -/
theorem State.sample_congr {s t : State} (hb : t.bus = s.bus) (hp : t.params = s.params) (he : t.env = s.env) (i : Nat) :
    t.sample i = s.sample i := by
  simp [State.sample, hb, hp, he]

theorem Sampled.rest {s t : State} {j : Nat} (h : Sampled s j t) :
    t.pc = s.pc ∧ t.cstate = s.cstate ∧ t.status = s.status ∧ t.result = s.result ∧ t.owner = s.owner ∧ t.bus = s.bus ∧
      t.slots = s.slots ∧ t.dir = s.dir ∧ t.dbuf = s.dbuf ∧ t.fault = s.fault ∧ t.params = s.params ∧
      t.env = s.envAfterSamples j := by
  unfold Sampled at h; rw [State.ext_iff] at h; tauto

theorem Sampled.of_rest {s t : State} {j : Nat}
    (h : t.pc = s.pc ∧ t.cstate = s.cstate ∧ t.status = s.status ∧ t.result = s.result ∧ t.owner = s.owner ∧
      t.bus = s.bus ∧ t.slots = s.slots ∧ t.dir = s.dir ∧ t.dbuf = s.dbuf ∧ t.fault = s.fault ∧ t.params = s.params ∧
      t.env = s.envAfterSamples j) : Sampled s j t := by
  unfold Sampled; rw [State.ext_iff]; simp [h]

theorem Sampled.slot {s t : State} {j : Nat} (h : Sampled s j t) (d : SlotId) : t.slot d = s.slot d := by
  simp only [State.slot, h.rest.2.2.2.2.2.2.1]

/-- After `i` samples the `j`-th next sample is the `i + j`-th. -/
theorem Sampled.sample {s t : State} {i : Nat} (h : Sampled s i t) (j : Nat) : t.sample j = s.sample (i + j) := by
  have r := h.rest
  simp only [State.sample, r.2.2.2.2.2.1, r.2.2.2.2.2.2.2.2.2.2.1, r.2.2.2.2.2.2.2.2.2.2.2, State.envAfterSamples]
  split
  · rfl
  · rw [Env.sdiAt_afterSdi]

theorem Sampled.refl (s : State) : Sampled s 0 s := by
  simp [Sampled, State.envAfterSamples_zero]

theorem Sampled.trans {s t u : State} {i j : Nat} (h : Sampled s i t) (g : Sampled t j u) : Sampled s (i + j) u := by
  have r := h.rest
  have q := g.rest
  refine Sampled.of_rest ?_
  have he : t.envAfterSamples j = s.envAfterSamples (i + j) := by
    simp only [State.envAfterSamples, r.2.2.2.2.2.1, r.2.2.2.2.2.2.2.2.2.2.2]
    split
    · rfl
    · rw [Env.afterSdi_afterSdi]
  simp only [q, r, he, true_and]

theorem State.pinWrite_sampled (p : PinId) (b : Level) (s : State) : Sampled s 0 (s.pinWrite p b) :=
  Sampled.of_rest (by simp [State.envAfterSamples_zero])

theorem State.wait_sampled (timed : Bool) (s : State) : Sampled s 0 (s.wait timed) :=
  Sampled.of_rest (by simp [State.envAfterSamples_zero])

theorem State.notifyAlive_sampled (timed : Bool) (s : State) : Sampled s 0 (s.notifyAlive timed) :=
  Sampled.of_rest (by simp [State.envAfterSamples_zero])

/-- The read of the data-in line: its value, its event, one sample taken (R65, R66). -/
theorem State.pinRead_sdi_spec (s : State) :
    (s.pinRead s.bus.sdi).1 = s.sample 0 ∧ Records s (s.pinRead s.bus.sdi).2 (readEvent s.bus.sdi (s.sample 0)) ∧
      Sampled s 1 (s.pinRead s.bus.sdi).2 := by
  rw [State.pinRead_sdi]
  refine ⟨rfl, ⟨rfl, fun q => ?_, fun q => ?_⟩, Sampled.of_rest (by simp)⟩
  · rw [levelAfter_readEvent]; rfl
  · rw [dirAfter_readEvent]; rfl

/-- One bit of the engine: the sampled bit is stored at its index, its events are recorded, one sample is taken. -/
theorem engineBit_spec (timed : Bool) (c : Slot) (v : XferWord) (k : Nat) (acc : XferWord) (s : State) :
    (engineBit timed c v k acc s).1 = accumulate acc k (s.sample 0) ∧
      Records s (engineBit timed c v k acc s).2 (bitEvents timed c s.bus v k (s.sample 0)) ∧
      Sampled s 1 (engineBit timed c v k acc s).2 := by
  unfold engineBit bitEvents
  cases c.cpha with
  | leading =>
    simp only [leadingBit]
    generalize h1 : s.pinWrite s.bus.sdo (v.getLsbD k) = s1
    have r1 := h1 ▸ s.pinWrite_records s.bus.sdo (v.getLsbD k)
    have m1 := h1 ▸ s.pinWrite_sampled s.bus.sdo (v.getLsbD k)
    generalize h2 : s1.wait timed = s2
    have r2 := r1.trans (h2 ▸ s1.wait_records timed)
    have m2 := m1.trans (h2 ▸ s1.wait_sampled timed)
    have b2 : s2.bus = s.bus := m2.rest.2.2.2.2.2.1
    generalize h3 : s2.pinWrite s2.bus.clk (!c.cpol) = s3
    have r3 := r2.trans (h3 ▸ s2.pinWrite_records s2.bus.clk (!c.cpol))
    have m3 := m2.trans (h3 ▸ s2.pinWrite_sampled s2.bus.clk (!c.cpol))
    have b3 : s3.bus = s.bus := m3.rest.2.2.2.2.2.1
    have hb : s2.bus.sdi = s3.bus.sdi := by rw [b2, b3]
    rw [hb]
    obtain ⟨e4, r4, m4⟩ := s3.pinRead_sdi_spec
    have r4 := r3.trans r4
    have m4 := m3.trans m4
    have hs : s3.sample 0 = s.sample 0 := m3.sample 0
    generalize h5 : (s3.pinRead s3.bus.sdi).2.wait timed = s5
    have r5 := r4.trans (h5 ▸ State.wait_records timed _)
    have m5 := m4.trans (h5 ▸ State.wait_sampled timed _)
    have b5 : s5.bus = s.bus := m5.rest.2.2.2.2.2.1
    have r6 := r5.trans (s5.pinWrite_records s5.bus.clk c.cpol)
    have m6 := m5.trans (s5.pinWrite_sampled s5.bus.clk c.cpol)
    rw [hs, b2, b3, b5] at r6
    rw [b5] at m6
    refine ⟨by rw [e4, hs], by rw [b5]; exact r6, by rw [b5]; exact m6⟩
  | trailing =>
    simp only [trailingBit]
    generalize h1 : s.wait timed = s1
    have r1 := h1 ▸ s.wait_records timed
    have m1 := h1 ▸ s.wait_sampled timed
    have b1 : s1.bus = s.bus := m1.rest.2.2.2.2.2.1
    generalize h2 : s1.pinWrite s1.bus.clk (!c.cpol) = s2
    have r2 := r1.trans (h2 ▸ s1.pinWrite_records s1.bus.clk (!c.cpol))
    have m2 := m1.trans (h2 ▸ s1.pinWrite_sampled s1.bus.clk (!c.cpol))
    have b2 : s2.bus = s.bus := m2.rest.2.2.2.2.2.1
    generalize h3 : s2.pinWrite s2.bus.sdo (v.getLsbD k) = s3
    have r3 := r2.trans (h3 ▸ s2.pinWrite_records s2.bus.sdo (v.getLsbD k))
    have m3 := m2.trans (h3 ▸ s2.pinWrite_sampled s2.bus.sdo (v.getLsbD k))
    generalize h4 : s3.wait timed = s4
    have r4 := r3.trans (h4 ▸ s3.wait_records timed)
    have m4 := m3.trans (h4 ▸ s3.wait_sampled timed)
    have b4 : s4.bus = s.bus := m4.rest.2.2.2.2.2.1
    obtain ⟨e5, r5, m5⟩ := s4.pinRead_sdi_spec
    have r5 := r4.trans r5
    have m5 := m4.trans m5
    have hs : s4.sample 0 = s.sample 0 := m4.sample 0
    generalize h5 : (s4.pinRead s4.bus.sdi).2 = s5 at r5 m5
    have b5 : s5.bus = s.bus := m5.rest.2.2.2.2.2.1
    have r6 := r5.trans (s5.pinWrite_records s5.bus.clk c.cpol)
    have m6 := m5.trans (s5.pinWrite_sampled s5.bus.clk c.cpol)
    rw [hs, b1, b2, b4, b5] at r6
    rw [b5] at m6
    refine ⟨by rw [e5, hs], by rw [b5]; exact r6, by rw [b5]; exact m6⟩

/-- The accumulator after storing a bit at index `i` (R148). -/
theorem accumulate_getLsbD (acc : XferWord) (i k : Nat) (b : Level) :
    (accumulate acc i b).getLsbD k = (acc.getLsbD k || (decide (k < 16) && decide (k = i) && b)) := by
  simp only [accumulate, BitVec.getLsbD_or, BitVec.getLsbD_shiftLeft, BitVec.getLsbD_setWidth, BitVec.getLsbD_ofBool]
  by_cases hk : k < 16
  · by_cases hi : k = i
    · subst hi; simp [hk]
    · have : ¬ (¬ k < i ∧ k - i = 0) := by omega
      by_cases h1 : k < i
      · simp [hk, h1, hi]
      · have h2 : k - i ≠ 0 := by omega
        simp [h2, hi]
  · have := acc.getLsbD_of_ge k (by omega)
    simp [hk]

/-- A step's index and an index's step are each other (R67). -/
theorem bitIndex_bitIndex {o : BitOrder} {n i : Nat} (h : i < n) : bitIndex o n (bitIndex o n i) = i := by
  cases o
  · simp only [bitIndex]; omega
  · rfl

theorem bitIndex_lt {o : BitOrder} {n i : Nat} (h : i < n) : bitIndex o n i < n := by
  cases o <;> simp only [bitIndex] <;> omega

/-- The last `m` steps of the loop: events, samples, and the value bit by bit. -/
theorem engineLoop_spec (timed : Bool) (c : Slot) (v : XferWord) (n : Nat) :
    ∀ (m : Nat) (acc : XferWord) (s : State), m ≤ n →
      Records s (engineLoop timed c v n m acc s).2
        ((List.range m).flatMap fun j => bitEvents timed c s.bus v (bitIndex c.order n (n - m + j)) (s.sample j)) ∧
      Sampled s m (engineLoop timed c v n m acc s).2 ∧
      ∀ k, (engineLoop timed c v n m acc s).1.getLsbD k = (acc.getLsbD k ||
        (decide (k < 16) && decide (k < n) && decide (n - m ≤ bitIndex c.order n k) &&
          s.sample (bitIndex c.order n k - (n - m)))) := by
  intro m
  induction m with
  | zero =>
    intro acc s _
    refine ⟨Records.refl rfl rfl rfl, Sampled.refl s, fun k => ?_⟩
    by_cases hk : k < n
    · have := bitIndex_lt (o := c.order) hk
      have h2 : ¬ n ≤ bitIndex c.order n k := by omega
      simp [engineLoop, h2]
    · simp [engineLoop, hk]
  | succ m ih =>
    intro acc s hm
    simp only [engineLoop]
    obtain ⟨e1, r1, m1⟩ := engineBit_spec timed c v (bitIndex c.order n (n - (m + 1))) acc s
    generalize engineBit timed c v (bitIndex c.order n (n - (m + 1))) acc s = x at e1 r1 m1
    obtain ⟨r2, m2, e2⟩ := ih x.1 x.2 (by omega)
    refine ⟨?_, ?_, fun k => ?_⟩
    · have h := r1.trans r2
      rw [m1.rest.2.2.2.2.2.1] at h
      simp only [List.range_succ_eq_map, List.flatMap_cons, List.flatMap_map]
      convert h using 2
      · rw [Nat.add_zero]
      refine congrArg (fun f => List.flatMap f (List.range m)) (funext fun j => ?_)
      rw [m1.sample, Nat.add_comm 1 j]
      congr 2
      omega
    · rw [Nat.add_comm]; exact m1.trans m2
    · rw [e2, e1, accumulate_getLsbD]
      by_cases hk : k < n
      · have hb := bitIndex_lt (o := c.order) hk
        have hbb := bitIndex_bitIndex (o := c.order) hk
        by_cases h0 : bitIndex c.order n k = n - (m + 1)
        · have hki : k = bitIndex c.order n (n - (m + 1)) := by rw [← h0, hbb]
          have h1 : ¬ n - m ≤ bitIndex c.order n k := by omega
          rw [decide_eq_true hki, h0]
          simp [hk]
          intro _ _ hh; omega
        · have hki : k ≠ bitIndex c.order n (n - (m + 1)) := by
            intro hh; apply h0; rw [hh, bitIndex_bitIndex (by omega)]
          rw [decide_eq_false hki, m1.sample]
          by_cases h1 : n - m ≤ bitIndex c.order n k
          · have h2 : n - (m + 1) ≤ bitIndex c.order n k := by omega
            have h3 : 1 + (bitIndex c.order n k - (n - m)) = bitIndex c.order n k - (n - (m + 1)) := by omega
            simp [hk, h1, h2, h3]
          · have h2 : ¬ n - (m + 1) ≤ bitIndex c.order n k := by omega
            simp [hk, h1, h2]
      · have hki : k ≠ bitIndex c.order n (n - (m + 1)) := by
          have := bitIndex_lt (o := c.order) (n := n) (i := n - (m + 1)) (by omega); omega
        simp [hk, hki]

/-- The engine of R143 and R172: its events, the samples it takes, and the received value (R148). -/
theorem engine_spec (timed : Bool) (d : SlotId) (v : XferWord) (n : Nat) (s : State) :
    Records s (engine timed d v n s).2 (unitEvents timed (s.slot d) s.bus v n s.sample) ∧
      Sampled s n (engine timed d v n s).2 ∧
      ∀ k, (engine timed d v n s).1.getLsbD k = (decide (k < 16) && receivedBit s d n k) := by
  simp only [engine]
  generalize h1 : s.pinWrite s.bus.clk (s.slot d).cpol = s1
  have r1 := h1 ▸ s.pinWrite_records s.bus.clk (s.slot d).cpol
  have m1 := h1 ▸ s.pinWrite_sampled s.bus.clk (s.slot d).cpol
  obtain ⟨r2, m2, e2⟩ := engineLoop_spec timed (s.slot d) v n n 0#16 s1 (le_refl n)
  generalize engineLoop timed (s.slot d) v n n 0#16 s1 = x at r2 m2 e2
  have r3 := (r1.trans r2).trans (State.notifyAlive_records timed x.2)
  have m3 := (m1.trans m2).trans (State.notifyAlive_sampled timed x.2)
  have hs : ∀ i, s1.sample i = s.sample i := fun i => by rw [m1.sample, Nat.zero_add]
  refine ⟨?_, by simpa using m3, fun k => ?_⟩
  · rw [m1.rest.2.2.2.2.2.1] at r3
    simpa only [unitEvents, Nat.sub_self, Nat.zero_add, hs] using r3
  · rw [e2]
    simp [receivedBit, hs, Bool.and_assoc]

/-- The value bit by bit for a legal count (R89, R148). -/
theorem engine_value (timed : Bool) (d : SlotId) (v : XferWord) {n : Nat} (h : n ≤ 16) (s : State) (k : Nat) :
    (engine timed d v n s).1.getLsbD k = receivedBit s d n k := by
  rw [(engine_spec timed d v n s).2.2]
  by_cases hk : k < 16
  · simp [hk]
  · have : ¬ k < n := by omega
    simp [receivedBit, this]

/-- Both engines give the same value (R172). -/
theorem engine_value_eq (timed timed' : Bool) (d : SlotId) (v : XferWord) (n : Nat) (s : State) :
    (engine timed d v n s).1 = (engine timed' d v n s).1 := by
  apply BitVec.eq_of_getLsbD_eq
  intro k _
  rw [(engine_spec timed d v n s).2.2, (engine_spec timed' d v n s).2.2]

end Sys2Proof.Machine
end

