-- ==== Sys2Proof/Laws/Framing.lean ====
section
/-!
SUPPORT. The delegate steps and the byte loop (R199, R200): what each answers, on registered and on NULL slots.
-/

namespace Sys2Proof.Machine

/-- The engine a slot's kind selects (R170): BITBANG is timed, HW is not. -/
theorem kind_timed {c : Slot} (h : c.kind ≠ .null) :
    (c.kind = .bitbang ∧ c.timed = true) ∨ (c.kind = .hw ∧ c.timed = false) := by
  cases hk : c.kind <;> simp_all [Slot.timed]

/-- A write step on a registered slot: the owner runs the engine of its kind, any other slot faults (R177, R199). -/
theorem writeStep_registered {d : SlotId} {s : State} (v : XferWord) (n : Nat) (h : (s.slot d).kind ≠ .null) :
    writeStep d v n s =
      if s.owner = some d then .next (engine (s.slot d).timed d v n s).2 else raise .transferOutsideTxn s := by
  unfold writeStep
  rcases kind_timed h with ⟨hk, ht⟩ | ⟨hk, ht⟩ <;> simp only [hk, ht, requireOwner_eq, bbEngine, hwEngine] <;>
    split <;> rfl

/-- A write step on a NULL slot reports code 5 (R174). -/
theorem writeStep_null {d : SlotId} {s : State} (v : XferWord) (n : Nat) (h : (s.slot d).kind = .null) :
    writeStep d v n s = .next s.nullReport := by
  unfold writeStep; simp [h]

/-- A byte on the slot that holds the bus: its events and eight samples. -/
theorem writeByte_owner {d : SlotId} {s : State} (b : Byte) (h : (s.slot d).kind ≠ .null) (ho : s.owner = some d) :
    ∃ t, writeByte d b s = .next t ∧
      Records s t (unitEvents (s.slot d).timed (s.slot d) s.bus (b.setWidth 16) 8 s.sample) ∧ Sampled s 8 t := by
  refine ⟨_, ?_, (engine_spec _ d (b.setWidth 16) 8 s).1, (engine_spec _ d (b.setWidth 16) 8 s).2.1⟩
  rw [writeByte, writeStep_registered _ _ h, if_pos ho]

theorem bufBytes_zero (m : Memory) (a : Nat) : bufBytes m a 0 = [] := rfl

theorem bufBytes_succ (m : Memory) (a n : Nat) :
    bufBytes m a (n + 1) = (Cells.read m a).getD 0#8 :: bufBytes m (a + 1) n := by
  simp only [bufBytes, List.range_succ_eq_map, List.map_cons, List.map_map, Nat.add_zero]
  congr 2
  funext k
  simp only [Function.comp_apply, Nat.succ_eq_add_one]
  congr 2; omega

theorem bufBytes_length (m : Memory) (a n : Nat) : (bufBytes m a n).length = n := by simp [bufBytes]

theorem bufWritten_succ {m : Memory} {a n : Nat} :
    bufWritten m a (n + 1) ↔ (Cells.read m a).isSome = true ∧ bufWritten m (a + 1) n := by
  constructor
  · intro h
    refine ⟨by simpa using h 0 (by omega), fun k hk => ?_⟩
    have := h (k + 1) (by omega)
    rwa [show a + (k + 1) = a + 1 + k by omega] at this
  · rintro ⟨h0, h⟩ k hk
    cases k with
    | zero => simpa using h0
    | succ k => rw [show a + (k + 1) = a + 1 + k by omega]; exact h k (by omega)

/-- The samples of the bytes after the first. -/
theorem Sampled.sample_fun {s t : State} {i : Nat} (h : Sampled s i t) : t.sample = fun j => s.sample (j + i) := by
  funext j; rw [h.sample, Nat.add_comm]

/-- The byte loop on the slot that holds the bus, over bytes the host wrote (R200). -/
theorem sendBytes_owner (d : SlotId) :
    ∀ (n a : Nat) (s : State), (s.slot d).kind ≠ .null → s.owner = some d → bufWritten s.dbuf a n →
      ∃ t, sendBytes d a n s = .next t ∧
        Records s t (byteEvents (s.slot d).timed (s.slot d) s.bus (bufBytes s.dbuf a n) s.sample) ∧
        Sampled s (8 * n) t := by
  intro n
  induction n with
  | zero => exact fun a s _ _ _ => ⟨s, rfl, Records.refl rfl rfl rfl, Sampled.refl s⟩
  | succ n ih =>
    intro a s hk ho hw
    obtain ⟨h0, hw'⟩ := bufWritten_succ.mp hw
    obtain ⟨b, hb⟩ := Option.isSome_iff_exists.mp h0
    obtain ⟨u, e1, r1, m1⟩ := writeByte_owner (d := d) b hk ho
    have q := m1.rest
    obtain ⟨t, e2, r2, m2⟩ := ih (a + 1) u (by rwa [m1.slot]) (by rw [q.2.2.2.2.1, ho])
      (by rw [q.2.2.2.2.2.2.2.2.1]; exact hw')
    refine ⟨t, ?_, ?_, ?_⟩
    · simp only [sendBytes, State.memRead, hb, e1, andThen_next, e2]
    · rw [bufBytes_succ, hb]
      simp only [byteEvents, Option.getD_some]
      rw [m1.slot, q.2.2.2.2.2.1, q.2.2.2.2.2.2.2.2.1, m1.sample_fun] at r2
      exact r1.trans r2
    · rw [show 8 * (n + 1) = 8 + 8 * n by omega]; exact m1.trans m2

/-- The byte loop on the slot that holds the bus stops at the first unwritten byte (R61). -/
theorem sendBytes_owner_unwritten (d : SlotId) :
    ∀ (k n a : Nat) (s : State), k < n → (s.slot d).kind ≠ .null → s.owner = some d → bufWritten s.dbuf a k →
      Cells.read s.dbuf (a + k) = none →
      ∃ t, sendBytes d a n s = raise .unwrittenDbuf t ∧
        Records s t (byteEvents (s.slot d).timed (s.slot d) s.bus (bufBytes s.dbuf a k) s.sample) ∧
        Sampled s (8 * k) t := by
  intro k
  induction k with
  | zero =>
    intro n a s hn _ _ _ hu
    cases n with
    | zero => omega
    | succ n =>
      refine ⟨s, ?_, Records.refl rfl rfl rfl, Sampled.refl s⟩
      simp only [sendBytes, State.memRead]
      rw [show Cells.read s.dbuf a = none from hu]
  | succ k ih =>
    intro n a s hn hk ho hw hu
    cases n with
    | zero => omega
    | succ n =>
      obtain ⟨h0, hw'⟩ := bufWritten_succ.mp hw
      obtain ⟨b, hb⟩ := Option.isSome_iff_exists.mp h0
      obtain ⟨u, e1, r1, m1⟩ := writeByte_owner (d := d) b hk ho
      have q := m1.rest
      obtain ⟨t, e2, r2, m2⟩ := ih n (a + 1) u (by omega) (by rwa [m1.slot]) (by rw [q.2.2.2.2.1, ho])
        (by rw [q.2.2.2.2.2.2.2.2.1]; exact hw')
        (by rw [q.2.2.2.2.2.2.2.2.1, show a + 1 + k = a + (k + 1) by omega]; exact hu)
      refine ⟨t, ?_, ?_, ?_⟩
      · simp only [sendBytes, State.memRead, hb, e1, andThen_next, e2]
      · rw [bufBytes_succ, hb]
        simp only [byteEvents, Option.getD_some]
        rw [m1.slot, q.2.2.2.2.2.1, q.2.2.2.2.2.2.2.2.1, m1.sample_fun] at r2
        exact r1.trans r2
      · rw [show 8 * (k + 1) = 8 + 8 * k by omega]; exact m1.trans m2

/-- A second report of the same code sets nothing new. -/
theorem Status.report_report (c : ErrCode) (t : Status) : (t.report c).report c = t.report c := by
  cases c <;> rfl

/-- The byte loop on a NULL slot reports code 5 per byte (R205). -/
theorem sendBytes_null (d : SlotId) :
    ∀ (n a : Nat) (s : State), (s.slot d).kind = .null → bufWritten s.dbuf a n →
      sendBytes d a n s = .next { s with
        status := if n = 0 then s.status else s.status.report .uninit
        trace := s.trace ++ List.replicate n (.err .uninit) } := by
  intro n
  induction n with
  | zero => intro a s _ _; simp [sendBytes]
  | succ n ih =>
    intro a s hk hw
    obtain ⟨h0, hw'⟩ := bufWritten_succ.mp hw
    obtain ⟨b, hb⟩ := Option.isSome_iff_exists.mp h0
    have := ih (a + 1) s.nullReport (by simpa using hk) hw'
    simp only [sendBytes, State.memRead, hb, writeByte, writeStep_null _ _ hk, andThen_next, this]
    simp only [Host.Outcome.next.injEq, State.ext_iff]
    simp [List.replicate_succ, Status.report_report]

/-- The byte loop on a NULL slot stops at an unwritten byte (R205). -/
theorem sendBytes_null_unwritten (d : SlotId) :
    ∀ (n a : Nat) (s : State), (s.slot d).kind = .null → ¬ bufWritten s.dbuf a n →
      ∃ t, sendBytes d a n s = raise .unwrittenDbuf t ∧ t.pc = s.pc := by
  intro n
  induction n with
  | zero => intro a s _ h; exact absurd (fun k hk => by omega) h
  | succ n ih =>
    intro a s hk hw
    cases hb : Cells.read s.dbuf a with
    | none => exact ⟨s, by simp only [sendBytes, State.memRead, hb], rfl⟩
    | some b =>
      have hw' : ¬ bufWritten s.nullReport.dbuf (a + 1) n := fun h => hw (bufWritten_succ.mpr ⟨by simp [hb], h⟩)
      obtain ⟨t, e, hp⟩ := ih (a + 1) s.nullReport (by simpa using hk) hw'
      exact ⟨t, by simp only [sendBytes, State.memRead, hb, writeByte, writeStep_null _ _ hk, andThen_next, e], hp⟩

/-- A buffer that is not written over a range has a first byte in it that is not. -/
theorem first_unwritten {m : Memory} {a n : Nat} (h : ¬ bufWritten m a n) :
    ∃ k, k < n ∧ bufWritten m a k ∧ Cells.read m (a + k) = none := by
  induction n with
  | zero => exact absurd (fun k hk => by omega) h
  | succ n ih =>
    by_cases hn : bufWritten m a n
    · refine ⟨n, by omega, hn, ?_⟩
      by_contra hc
      apply h
      intro k hk
      rcases Nat.lt_succ_iff_lt_or_eq.mp hk with hk | rfl
      · exact hn k hk
      · exact Option.ne_none_iff_isSome.mp hc
    · obtain ⟨k, hk, h1, h2⟩ := ih hn
      exact ⟨k, by omega, h1, h2⟩

/-- Driving mode-select records its event (R204). -/
theorem State.modeSelect_records (d : SlotId) (b : Level) (s : State) :
    Records s (s.modeSelect d b) (writeEvent (s.slot d).dc b) := s.pinWrite_records _ _

theorem State.modeSelect_sampled (d : SlotId) (b : Level) (s : State) : Sampled s 0 (s.modeSelect d b) :=
  s.pinWrite_sampled _ _

/-- The bracket's start on a registered slot and a free bus (R180). -/
theorem beginStep_free {d : SlotId} {s : State} (hk : (s.slot d).kind ≠ .null) (ho : s.owner = none) :
    ∃ t, beginStep d s = .next t ∧ Records s t (writeEvent (s.slot d).cs s.params.csActive) ∧
      Sampled { s with owner := some d } 0 t := by
  rcases takeBus_cases d s with ⟨-, h⟩ | ⟨h, -⟩ | ⟨o, h, -⟩
  · exact ⟨State.pinWrite (s.slot d).cs s.params.csActive { s with owner := some d }, by rw [beginStep_registered hk, h], (State.pinWrite_records _ _ _).left rfl rfl rfl,
      State.pinWrite_sampled _ _ _⟩
  · simp [h] at ho
  · simp [h] at ho

/-- The command byte on the slot that holds the bus (R200). -/
theorem sendCommand_owner {d : SlotId} {s : State} (cp : Bool) (cmd : Byte) (hk : (s.slot d).kind ≠ .null)
    (ho : s.owner = some d) :
    ∃ t, sendCommand d cp cmd s = .next t ∧
      Records s t (if cp then writeEvent (s.slot d).dc s.params.dcCommand ++
        byteEvents (s.slot d).timed (s.slot d) s.bus [cmd] s.sample else []) ∧
      Sampled s (if cp then 8 else 0) t := by
  cases cp with
  | false => exact ⟨s, rfl, Records.refl rfl rfl rfl, Sampled.refl s⟩
  | true =>
    have m1 := s.modeSelect_sampled d s.params.dcCommand
    have q := m1.rest
    obtain ⟨t, e, r, m⟩ := writeByte_owner (d := d) (s := s.modeSelect d s.params.dcCommand) cmd (by simpa using hk)
      (by simpa using ho)
    refine ⟨t, e, ?_, by simpa using m1.trans m⟩
    rw [m1.slot, q.2.2.2.2.2.1, m1.sample_fun] at r
    simpa [byteEvents] using (s.modeSelect_records d s.params.dcCommand).trans r

/-- The data bytes on the slot that holds the bus, all written by the host (R200). -/
theorem sendData_owner {d : SlotId} {s : State} (len addr : BitVec 16) (hk : (s.slot d).kind ≠ .null)
    (ho : s.owner = some d) (hw : bufWritten s.dbuf addr.toNat len.toNat) :
    ∃ t, sendData d len addr s = .next t ∧
      Records s t (if !(bufBytes s.dbuf addr.toNat len.toNat).isEmpty then writeEvent (s.slot d).dc s.dcData ++
        byteEvents (s.slot d).timed (s.slot d) s.bus (bufBytes s.dbuf addr.toNat len.toNat) s.sample else []) ∧
      Sampled s (8 * len.toNat) t := by
  unfold sendData
  by_cases h0 : len.toNat = 0
  · rw [if_pos h0, h0]
    exact ⟨s, rfl, Records.refl rfl rfl rfl, Sampled.refl s⟩
  · rw [if_neg h0]
    have m1 := s.modeSelect_sampled d s.dcData
    have q := m1.rest
    obtain ⟨t, e, r, m⟩ := sendBytes_owner d len.toNat addr.toNat (s.modeSelect d s.dcData) (by simpa using hk)
      (by simpa using ho) (by simpa using hw)
    have hne : (bufBytes s.dbuf addr.toNat len.toNat).isEmpty = false := by
      rw [List.isEmpty_eq_false_iff, ← List.length_pos_iff, bufBytes_length]; omega
    refine ⟨t, e, ?_, by simpa using m1.trans m⟩
    rw [hne, Bool.not_false, if_pos rfl]
    rw [m1.slot, q.2.2.2.2.2.1, q.2.2.2.2.2.2.2.2.1, m1.sample_fun] at r
    exact (s.modeSelect_records d s.dcData).trans r

/-- The data bytes on the slot that holds the bus, up to the first the host never wrote (R61). -/
theorem sendData_owner_unwritten {d : SlotId} {s : State} {len addr : BitVec 16} {k : Nat} (hk : (s.slot d).kind ≠ .null)
    (ho : s.owner = some d) (hn : k < len.toNat) (hw : bufWritten s.dbuf addr.toNat k)
    (hu : Cells.read s.dbuf (addr.toNat + k) = none) :
    ∃ t, sendData d len addr s = raise .unwrittenDbuf t ∧
      Records s t (writeEvent (s.slot d).dc s.dcData ++
        byteEvents (s.slot d).timed (s.slot d) s.bus (bufBytes s.dbuf addr.toNat k) s.sample) ∧
      Sampled s (8 * k) t := by
  unfold sendData
  rw [if_neg (by omega)]
  have m1 := s.modeSelect_sampled d s.dcData
  have q := m1.rest
  obtain ⟨t, e, r, m⟩ := sendBytes_owner_unwritten d k len.toNat addr.toNat (s.modeSelect d s.dcData) hn
    (by simpa using hk) (by simpa using ho) (by simpa using hw) (by simpa using hu)
  refine ⟨t, e, ?_, by simpa using m1.trans m⟩
  rw [m1.slot, q.2.2.2.2.2.1, q.2.2.2.2.2.2.2.2.1, m1.sample_fun] at r
  exact (s.modeSelect_records d s.dcData).trans r

/-- The frame up to its data bytes, on a registered slot and a free bus (R200). -/
theorem frameStart_free {d : SlotId} {s : State} (cp : Bool) (cmd : Byte) (hk : (s.slot d).kind ≠ .null)
    (ho : s.owner = none) :
    ∃ t, andThen (beginStep d s) (sendCommand d cp cmd) = .next t ∧
      Records s t (writeEvent (s.slot d).cs s.params.csActive ++
        (if cp then writeEvent (s.slot d).dc s.params.dcCommand ++
          byteEvents (s.slot d).timed (s.slot d) s.bus [cmd] s.sample else [])) ∧
      Sampled { s with owner := some d } (if cp then 8 else 0) t := by
  obtain ⟨u, e1, r1, m1⟩ := beginStep_free hk ho
  have q := m1.rest
  have hs : u.slot d = s.slot d := m1.slot d
  obtain ⟨t, e2, r2, m2⟩ := sendCommand_owner (s := u) cp cmd (by rwa [hs]) q.2.2.2.2.1
  have hsm : u.sample = s.sample := by rw [m1.sample_fun]; rfl
  rw [hs, q.2.2.2.2.2.1, q.2.2.2.2.2.2.2.2.2.2.1, hsm] at r2
  exact ⟨t, by rw [e1, andThen_next, e2], r1.trans r2, by simpa using m1.trans m2⟩

/-- The range check of R201 in numbers. -/
theorem rangeLeavesDbuf_iff {len addr : BitVec 16} : rangeLeavesDbuf len addr = true ↔ 65536 < addr.toNat + len.toNat := by
  unfold rangeLeavesDbuf
  exact decide_eq_true_iff

/-- TRANSFER on a registered slot: the engine of its kind if the slot holds the bus, else the fault (R150, R177). -/
theorem execTransfer_registered {d : SlotId} {s : State} (v : XferWord) (n : Nat) (h : (s.slot d).kind ≠ .null) :
    execTransfer d v n s = if s.owner = some d
      then complete (storeResult id (engine (s.slot d).timed d v n s)) else raise .transferOutsideTxn s := by
  unfold execTransfer
  rcases kind_timed h with ⟨hk, ht⟩ | ⟨hk, ht⟩ <;> simp only [hk, ht, requireOwner_eq, bbEngine, hwEngine] <;>
    split <;> rfl

/-- TRANSFER8 on a registered slot, the same way (R156). -/
theorem execTransfer8_registered {d : SlotId} {s : State} (b : Byte) (h : (s.slot d).kind ≠ .null) :
    execTransfer8 d b s = if s.owner = some d
      then complete (storeResult lowByte (engine (s.slot d).timed d (b.setWidth 16) 8 s))
      else raise .transferOutsideTxn s := by
  unfold execTransfer8
  rcases kind_timed h with ⟨hk, ht⟩ | ⟨hk, ht⟩ <;> simp only [hk, ht, requireOwner_eq, bbEngine, hwEngine] <;>
    split <;> rfl

end Sys2Proof.Machine
end

