-- ==== Sys2Proof/Laws/Words.lean ====
section
/-!
SUPPORT. The bits of register values and command words: what a field in its place reads at each bit.
-/

namespace Sys2Proof.Machine

/-- A register field read bit by bit. -/
theorem regField_getLsbD {n : Nat} (lo : Nat) (v : BitVec n) (i : Nat) :
    (regField lo v).getLsbD i = (decide (i < 32) && decide (lo ≤ i) && v.getLsbD (i - lo)) := by
  simp only [regField, BitVec.getLsbD_shiftLeft, BitVec.getLsbD_setWidth]
  by_cases h1 : i < 32 <;> by_cases h2 : lo ≤ i
  · have : ¬ i < lo := by omega
    have h3 : i - lo < 32 := by omega
    simp [h1, h2, this, h3]
  · have : i < lo := by omega
    simp [h2, this]
  · simp [h1]
  · simp [h1]

/-- A register bit read bit by bit. -/
theorem regBit_getLsbD (k : Nat) (b : Bool) (i : Nat) :
    (regBit k b).getLsbD i = (decide (i < 32) && decide (i = k) && b) := by
  rw [regBit, regField_getLsbD, BitVec.getLsbD_ofBool]
  by_cases h : i = k
  · subst h; simp
  · by_cases h2 : k ≤ i
    · have : i - k ≠ 0 := by omega
      simp [h, this]
    · simp [h, h2]

end Sys2Proof.Machine

namespace Sys2Proof

/-- A command field read bit by bit. -/
theorem placed_getLsbD {n : Nat} (lo : Nat) (v : BitVec n) (i : Nat) :
    (placed lo v).getLsbD i = (decide (i < 64) && decide (lo ≤ i) && v.getLsbD (i - lo)) := by
  simp only [placed, BitVec.getLsbD_shiftLeft, BitVec.getLsbD_setWidth]
  by_cases h1 : i < 64 <;> by_cases h2 : lo ≤ i
  · have : ¬ i < lo := by omega
    have h3 : i - lo < 64 := by omega
    simp [h1, h2, this, h3]
  · have : i < lo := by omega
    simp [h2, this]
  · simp [h1]
  · simp [h1]

/-- Reading the field at its own place gives its value. -/
theorem field_placed {n : Nat} {lo : Nat} (v : BitVec n) (h : lo + n ≤ 64) : field (placed lo v) lo n = v := by
  apply BitVec.eq_of_getLsbD_eq
  intro i hi
  simp only [field, BitVec.getLsbD_extractLsb', placed_getLsbD]
  have h1 : lo + i < 64 := by omega
  simp [hi, h1]

/-- Reading a field that lies below or above the placed one gives 0. -/
theorem field_placed_apart {n k : Nat} {lo at' : Nat} (v : BitVec n) (h : at' + k ≤ lo ∨ lo + n ≤ at') :
    field (placed lo v) at' k = 0#k := by
  apply BitVec.eq_of_getLsbD_eq
  intro i hi
  simp only [field, BitVec.getLsbD_extractLsb', placed_getLsbD, BitVec.getLsbD_zero]
  rcases h with h | h
  · have : ¬ lo ≤ at' + i := by omega
    simp [this]
  · have := v.getLsbD_of_ge (at' + i - lo) (by omega)
    simp [this]

/-- A field of an OR of words. -/
theorem field_or (w w' : Command) (lo len : Nat) : field (w ||| w') lo len = field w lo len ||| field w' lo len := by
  apply BitVec.eq_of_getLsbD_eq
  intro i hi
  simp [field, hi]

end Sys2Proof
end

