-- ==== Sys2Proof/Laws/PerInstr.lean ====
section
/-!
SUPPORT. One lemma per command: its encoding carries its opcode and no reserved bit (R96, R97).
-/

namespace Sys2Proof.Laws

/-- The mask of the command's row of spec/opcode_table.json: its opcode bits and its reserved bits. -/
def Encoding.mask : Instr → Command
  | .setup _ _ _ _ _ => 0xFFFF0000007F00FF#64
  | .register _ _ _ _ _ _ => 0xF01F00FF00000000#64
  | .unregister _ => 0xF0FFFFFFFFFFFFFF#64
  | .setDc _ _ => 0xF0FF00FFFFFFFFFF#64
  | .beginTxn _ => 0xF0FFFFFFFFFFFFFF#64
  | .endTxn _ => 0xF0FFFFFFFFFFFFFF#64
  | .transfer _ _ _ => 0xF0E0FFFFFFFF0000#64
  | .write _ _ _ => 0xF0E0FFFFFFFF0000#64
  | .transfer8 _ _ => 0xF0FFFFFFFFFFFF00#64
  | .isReady _ => 0xF0FFFFFFFFFFFFFF#64
  | .writeCmdData _ _ _ _ _ => 0xF07F00FF00000000#64

/-- The opcode of the command (R81). -/
def Encoding.opcode : Instr → BitVec 4
  | .setup _ _ _ _ _ => 0x1#4
  | .register _ _ _ _ _ _ => 0x2#4
  | .unregister _ => 0x3#4
  | .setDc _ _ => 0x4#4
  | .beginTxn _ => 0x5#4
  | .endTxn _ => 0x6#4
  | .transfer _ _ _ => 0x7#4
  | .write _ _ _ => 0x8#4
  | .transfer8 _ _ => 0x9#4
  | .isReady _ => 0xA#4
  | .writeCmdData _ _ _ _ _ => 0xB#4

/-- The encoding shows the opcode under its row's mask, and 0 in every reserved bit. -/
def Encoding.Statement (i : Instr) : Prop := encode i &&& Encoding.mask i = placed 60 (Encoding.opcode i)

/-- A masked word is known by its bits. -/
theorem Encoding.of_bits {w m k : Command} (h : ∀ i, i < 64 → (w.getLsbD i && m.getLsbD i) = k.getLsbD i) : w &&& m = k := by
  apply BitVec.eq_of_getLsbD_eq
  intro i hi
  rw [BitVec.getLsbD_and]
  exact h i hi

theorem Encoding.setup (clk sdo sdi : PinId) (hw : Bool) (iface : BitVec 8) :
    Encoding.Statement (.setup clk sdo sdi hw iface) := by
  apply Encoding.of_bits
  intro i hi
  simp only [encode, Encoding.mask, Encoding.opcode, placed_getLsbD, BitVec.getLsbD_or]
  interval_cases i <;> simp

theorem Encoding.register (d : SlotId) (cpol : Level) (cpha : ClockPhase) (order : BitOrder) (cs : PinId)
    (rate : BitVec 32) : Encoding.Statement (.register d cpol cpha order cs rate) := by
  apply Encoding.of_bits
  intro i hi
  simp only [encode, encodeHead, Encoding.mask, Encoding.opcode, placed_getLsbD, BitVec.getLsbD_or]
  interval_cases i <;> simp

/-- A head alone, under the mask that leaves out DEV. -/
theorem Encoding.head (op : BitVec 4) (d : SlotId) : encodeHead op d &&& 0xF0FFFFFFFFFFFFFF#64 = placed 60 op := by
  apply Encoding.of_bits
  intro i hi
  simp only [encodeHead, placed_getLsbD, BitVec.getLsbD_or]
  interval_cases i <;> simp

theorem Encoding.unregister (d : SlotId) : Encoding.Statement (.unregister d) := Encoding.head 0x3#4 d

theorem Encoding.setDc (d : SlotId) (dc : PinId) : Encoding.Statement (.setDc d dc) := by
  apply Encoding.of_bits
  intro i hi
  simp only [encode, encodeHead, Encoding.mask, Encoding.opcode, placed_getLsbD, BitVec.getLsbD_or]
  interval_cases i <;> simp

theorem Encoding.beginTxn (d : SlotId) : Encoding.Statement (.beginTxn d) := Encoding.head 0x5#4 d

theorem Encoding.endTxn (d : SlotId) : Encoding.Statement (.endTxn d) := Encoding.head 0x6#4 d

/-- A word of format X, under its mask. -/
theorem Encoding.formatX (op : BitVec 4) (d : SlotId) (v : XferWord) (n : Nat) :
    encodeX op d v n &&& 0xF0E0FFFFFFFF0000#64 = placed 60 op := by
  apply Encoding.of_bits
  intro i hi
  simp only [encodeX, encodeHead, placed_getLsbD, BitVec.getLsbD_or]
  interval_cases i <;> simp

theorem Encoding.transfer (d : SlotId) (v : XferWord) (n : Nat) : Encoding.Statement (.transfer d v n) :=
  Encoding.formatX 0x7#4 d v n

theorem Encoding.write (d : SlotId) (v : XferWord) (n : Nat) : Encoding.Statement (.write d v n) :=
  Encoding.formatX 0x8#4 d v n

theorem Encoding.transfer8 (d : SlotId) (b : Byte) : Encoding.Statement (.transfer8 d b) := by
  apply Encoding.of_bits
  intro i hi
  simp only [encode, encodeHead, Encoding.mask, Encoding.opcode, placed_getLsbD, BitVec.getLsbD_or]
  interval_cases i <;> simp

theorem Encoding.isReady (d : SlotId) : Encoding.Statement (.isReady d) := Encoding.head 0xA#4 d

theorem Encoding.writeCmdData (d : SlotId) (cp : Bool) (cmd : Byte) (len addr : BitVec 16) :
    Encoding.Statement (.writeCmdData d cp cmd len addr) := by
  apply Encoding.of_bits
  intro i hi
  simp only [encode, encodeHead, Encoding.mask, Encoding.opcode, placed_getLsbD, BitVec.getLsbD_or]
  interval_cases i <;> simp

end Sys2Proof.Laws
end

