-- ==== Sys2Proof/Laws/Step.lean ====
section
/-!
SUPPORT. What a step can do: the host's action, said once (R15, R223).
-/

namespace Sys2Proof.Machine

/-- The state with the host's next action taken. -/
def State.taken (s : State) (rest : List HostAction) : State := { s with env := { s.env with actions := rest } }

/-- Without a fault mark a step runs the host's next action. -/
theorem step_action {s : State} {a : HostAction} {rest : List HostAction} (hf : s.fault = none)
    (ha : s.env.actions = a :: rest) : step s = runAction a (s.taken rest) := by
  unfold step serve State.taken
  split
  · simp_all
  · split <;> simp_all

/-- Without a fault mark and an action to come a step changes nothing (R248). -/
theorem step_idle {s : State} (hf : s.fault = none) (ha : s.env.actions = []) : step s = .next s := by
  unfold step serve
  split
  · simp_all
  · split <;> simp_all

/-- With a fault mark a step stops (R32). -/
theorem step_faulted {s : State} {k : FaultKind} (hf : s.fault = some k) : step s = .fault (Fault.of k s) := by
  unfold step serve; split <;> simp_all

/-- Every way a step answers a next state: idle, a decoded command, an illegal word, or a host action. -/
theorem step_cases {s t : State} (h : step s = .next t) :
    s.fault = none ∧
      ((s.env.actions = [] ∧ t = s) ∨
      ∃ a rest, s.env.actions = a :: rest ∧
        ((∃ w i, a = .command w ∧ decode w = .ok i ∧ exec i (s.taken rest).startCommand = .next t) ∨
        (∃ w e, a = .command w ∧ decode w = .error e ∧ t = ((s.taken rest).startCommand.report .illegal).advance) ∨
        (∃ r, a = .readReg r ∧ t = (s.taken rest).hostRead r) ∨
        (∃ r m, a = .writeReg r m ∧ t = (s.taken rest).hostWrite r m) ∨
        (∃ x b, a = .writeBuf x b ∧ t = (s.taken rest).hostWriteBuf x b) ∨
        (a = .reset ∧ t = (s.taken rest).applyReset))) := by
  cases hf : s.fault with
  | some k => rw [step_faulted hf] at h; cases h
  | none =>
    refine ⟨rfl, ?_⟩
    cases ha : s.env.actions with
    | nil =>
      rw [step_idle hf ha] at h
      exact .inl ⟨rfl, by injection h with h; exact h.symm⟩
    | cons a rest =>
      rw [step_action hf ha] at h
      refine .inr ⟨a, rest, rfl, ?_⟩
      cases a with
      | command w =>
        simp only [runAction, runCommand] at h
        split at h
        · rename_i i hd; exact .inl ⟨w, i, rfl, hd, h⟩
        · rename_i e hd
          injection h with h; exact .inr (.inl ⟨w, e, rfl, hd, h.symm⟩)
      | readReg r => injection h with h; exact .inr (.inr (.inl ⟨r, rfl, h.symm⟩))
      | writeReg r m => injection h with h; exact .inr (.inr (.inr (.inl ⟨r, m, rfl, h.symm⟩)))
      | writeBuf x b => injection h with h; exact .inr (.inr (.inr (.inr (.inl ⟨x, b, rfl, h.symm⟩))))
      | reset => injection h with h; exact .inr (.inr (.inr (.inr (.inr ⟨rfl, h.symm⟩))))

end Sys2Proof.Machine
end

