-- ==== Sys2Proof/Tests/Slice0.lean ====
section
/-!
SUPPORT. The model's own tests: the smoke test of WellFormed, words written out from the spec's encodings, one or two
steps per command with expected values of spec/95_test_vectors.md, and a witness for the hypotheses of every statement.
-/

namespace Sys2Proof.Tests

open Sys2Proof.Machine

/-! ### WellFormed: an ill-formed term for each check (R89) -/

theorem test_wf_refuses_nbits_0 : (Instr.transfer 0 0#16 0).wf = false := by decide
theorem test_wf_refuses_nbits_17 : (Instr.write 0 0#16 17).wf = false := by decide
theorem test_wf_refuses_rate_0 : (Instr.register 0 false .leading .msbFirst 20#8 0#32).wf = false := by decide
theorem test_wf_takes_the_bounds :
    (Instr.transfer 0 0#16 1).wf = true ∧ (Instr.write 0 0#16 16).wf = true ∧
      (Instr.register 0 false .leading .msbFirst 20#8 1#32).wf = true := by decide

/-! ### Decoding: the words of spec/95_test_vectors.md, sections 1, 2.1 and 2.2 -/

theorem test_decode_setup : decode 0x10000A0B0C800200#64 = .ok (.setup 10#8 11#8 12#8 true 2#8) := by decide
theorem test_decode_register :
    decode 0x21E01600000F4240#64 = .ok (.register 1 true .trailing .lsbFirst 22#8 1000000#32) ∧
      decode 0x22801700007A1200#64 = .ok (.register 2 true .leading .msbFirst 23#8 8000000#32) ∧
      decode 0x20401400000F4240#64 = .ok (.register 0 false .trailing .msbFirst 20#8 1000000#32) := by decide
theorem test_decode_unregister : decode 0x3500000000000000#64 = .ok (.unregister 5) := by decide
theorem test_decode_setDc : decode 0x4100140000000000#64 = .ok (.setDc 1 20#8) := by decide
theorem test_decode_begin : decode 0x5100000000000000#64 = .ok (.beginTxn 1) := by decide
theorem test_decode_end : decode 0x6100000000000000#64 = .ok (.endTxn 1) := by decide
theorem test_decode_transfer :
    decode 0x7010000000008001#64 = .ok (.transfer 0 0x8001#16 16) ∧
      decode 0x7308000000000012#64 = .ok (.transfer 3 0x12#16 8) := by decide
theorem test_decode_write : decode 0x8308000000000012#64 = .ok (.write 3 0x12#16 8) := by decide
theorem test_decode_transfer8 : decode 0x900000000000009F#64 = .ok (.transfer8 0 0x9F#8) := by decide
theorem test_decode_isReady : decode 0xA300000000000000#64 = .ok (.isReady 3) := by decide
theorem test_decode_writeCmdData :
    decode 0xB0802A0000020000#64 = .ok (.writeCmdData 0 true 0x2A#8 2#16 0#16) ∧
      decode 0xB00000000002FFFF#64 = .ok (.writeCmdData 0 false 0#8 2#16 0xFFFF#16) := by decide

theorem test_decode_reserved_opcodes :
    decode 0x0000000000000000#64 = .error .reservedOpcode ∧ decode 0xC000000000000000#64 = .error .reservedOpcode ∧
      decode 0xD000000000000000#64 = .error .reservedOpcode ∧ decode 0xE000000000000000#64 = .error .reservedOpcode ∧
      decode 0xF000000000000000#64 = .error .reservedOpcode := by decide
theorem test_decode_reserved_bits :
    decode 0x10000A0B0C000001#64 = .error .reservedBit ∧ decode 0x3000000000000001#64 = .error .reservedBit ∧
      decode 0x70080000000100A5#64 = .error .reservedBit ∧ decode 0x70200000000000A5#64 = .error .reservedBit ∧
      decode 0x900000000000019F#64 = .error .reservedBit ∧ decode 0xB10000FF00000000#64 = .error .reservedBit := by decide
theorem test_decode_illegal_values :
    decode 0x7000000000000000#64 = .error .nbitsRange ∧ decode 0x7011000000000000#64 = .error .nbitsRange ∧
      decode 0x801F000000000000#64 = .error .nbitsRange ∧ decode 0x2000140000000000#64 = .error .rateZero := by decide
theorem test_table_word : decodeTableWord 64 0x5100000000000000 = some (.beginTxn 1) := by decide

/-! ### Small states -/

/-- A slot as REG0 of spec/95_test_vectors.md leaves it, with mode-select pin 21 (DC0). -/
def slot0 (k : Kind) : Slot :=
  { kind := k, cpol := false, cpha := .leading, order := .msbFirst, cs := 20#8, dc := 21#8, rate := 1000000#32 }

/-- A slot as REG1 leaves it. -/
def slot1 (k : Kind) : Slot :=
  { kind := k, cpol := true, cpha := .trailing, order := .lsbFirst, cs := 22#8, dc := 0xFF#8, rate := 1000000#32 }

/-- A ready bus of kind `k` with slots 0 and 1 registered, three bytes written, and answers `sdi` to come. -/
def ready (k : Kind) (sdi : List Level) : State :=
  { State.reset with
    cstate := match k with | .hw => .readyHw | .bitbang => .readySw | .null => .unconfigured
    bus := { clk := 10#8, sdo := 11#8, sdi := 12#8, hw := decide (k = .hw), iface := 0#8 }
    slots := (State.reset.slots.set 0 (slot0 k)).set 1 (slot1 k)
    lvl := [(10, true), (20, true), (21, true), (22, true)]
    dbuf := [(0, 0x01#8), (1, 0x02#8), (65535, 0x77#8)]
    env := { Env.idle with sdi := sdi } }

/-- The same with the bus held by slot `d`. -/
def held (k : Kind) (d : SlotId) (sdi : List Level) : State := { ready k sdi with owner := some d }

/-- The state with the host's next action. -/
def next1 (a : HostAction) (s : State) : State := { s with env := { s.env with actions := [a] } }

/-- What a state shows of itself after a step: the trace and one register. -/
def shows (r : Result) (n : BitVec 8) : Option (List Event × RegWord) := (nextOf r).map (fun t => (t.trace, t.regWord n))

/-! ### One step per command (expected values: the vectors V.. and L.. of spec/95_test_vectors.md) -/

/-- V1. -/
theorem test_setup_sw :
    shows (exec (.setup 10#8 11#8 12#8 false 0#8) State.reset) 0x04#8 =
      some ([.setupPin 10#8 .output, .write 10#8 true, .setupPin 11#8 .output, .setupPin 12#8 .input], 0x000C0B0A#32) := by
  decide

/-- V4: the factory fails. -/
theorem test_setup_hw_fails :
    shows (exec (.setup 10#8 11#8 12#8 true 2#8) { State.reset with env := { Env.idle with factory := [.fail] } }) 0x01#8 =
      some ([.factory .fail, .err .setupHwAlloc], 0x00000012#32) := by decide

/-- V13. -/
theorem test_register :
    shows (exec (.register 2 true .trailing .lsbFirst 24#8 1000000#32) (ready .bitbang [])) 0x14#8 =
      some ([.setupPin 24#8 .output, .write 24#8 true], 0x00FF181D#32) := by decide

/-- V16: a shared chip-select pin. -/
theorem test_register_alias :
    (faultOf (exec (.register 2 false .leading .msbFirst 20#8 1000000#32) (ready .bitbang []))).map Fault.kind =
      some .pinAlias := by decide

/-- V19, with the mode-select pin kept (R39). -/
theorem test_unregister : shows (exec (.unregister 0) (ready .bitbang [])) 0x10#8 = some ([], 0x0015FF00#32) := by decide

/-- V21. -/
theorem test_unregister_owner :
    (faultOf (exec (.unregister 0) (held .bitbang 0 []))).map Fault.kind = some .unregisterInTxn := by decide

/-- V23. -/
theorem test_setDc :
    shows (exec (.setDc 0 21#8) State.reset) 0x10#8 = some ([.setupPin 21#8 .output, .write 21#8 true], 0x0015FF00#32) := by
  decide

/-- V26: two mode-select lines on one pin. -/
theorem test_setDc_alias :
    (faultOf (exec (.setDc 1 21#8) (ready .bitbang []))).map Fault.kind = some .pinAlias := by decide

/-- V46. -/
theorem test_begin : shows (exec (.beginTxn 0) (ready .bitbang [])) 0x03#8 = some ([.write 20#8 false], 0x00000010#32) := by
  decide

/-- V49. -/
theorem test_begin_busy :
    (faultOf (exec (.beginTxn 1) (held .bitbang 0 []))).map Fault.kind = some .busBusy := by decide

/-- V47. -/
theorem test_end : shows (exec (.endTxn 0) (held .bitbang 0 [])) 0x03#8 = some ([.write 20#8 true], 0x00000000#32) := by
  decide

/-- V50. -/
theorem test_end_other :
    shows (exec (.endTxn 1) (held .bitbang 0 [])) 0x03#8 = some ([.write 22#8 true], 0x00000010#32) := by decide

/-- The per-mode trace of section 2.3, P = 0, Q = 0, MSB first. -/
theorem test_transfer_mode_0 :
    shows (exec (.transfer 0 2#16 2) (held .bitbang 0 [true, false])) 0x02#8 =
      some ([.write 10#8 false, .write 11#8 true, .half, .write 10#8 true, .read 12#8 true, .half, .write 10#8 false,
        .write 11#8 false, .half, .write 10#8 true, .read 12#8 false, .half, .write 10#8 false, .alive], 2#32) := by decide

/-- The per-mode trace of section 2.3, P = 1, Q = 1, LSB first. -/
theorem test_transfer_mode_3_lsb :
    shows (exec (.transfer 1 2#16 2) (held .bitbang 1 [true, false])) 0x02#8 =
      some ([.write 10#8 true, .half, .write 10#8 false, .write 11#8 false, .half, .read 12#8 true, .write 10#8 true,
        .half, .write 10#8 false, .write 11#8 true, .half, .read 12#8 false, .write 10#8 true, .alive], 1#32) := by decide

/-- V45: the hardware-backed unit, without its END. -/
theorem test_transfer_hw :
    shows (exec (.transfer 0 2#16 2) (held .hw 0 [true, false])) 0x02#8 =
      some ([.write 10#8 false, .write 11#8 true, .write 10#8 true, .read 12#8 true, .write 10#8 false, .write 11#8 false,
        .write 10#8 true, .read 12#8 false, .write 10#8 false], 2#32) := by decide

/-- V37: RESULT stays. -/
theorem test_write_keeps_result :
    shows (exec (.write 0 1#16 1) { held .bitbang 0 [true] with result := 2#16 }) 0x02#8 =
      some ([.write 10#8 false, .write 11#8 true, .half, .write 10#8 true, .read 12#8 true, .half, .write 10#8 false,
        .alive], 2#32) := by decide

/-- V40's fault, for WRITE. -/
theorem test_write_outside :
    (faultOf (exec (.write 0 0xA5#16 8) (ready .bitbang []))).map Fault.kind = some .transferOutsideTxn := by decide

/-- V39. -/
theorem test_transfer8 :
    (nextOf (exec (.transfer8 0 0#8) (held .bitbang 0 [true, true, false, false, false, false, true, false]))).map
      (fun t => (t.trace.length, t.regWord 0x02#8)) = some (50, 0x000000C2#32) := by decide

/-- V43. -/
theorem test_transfer8_null :
    shows (exec (.transfer8 3 0x55#8) State.reset) 0x01#8 = some ([.err .uninit], 0x00000045#32) := by decide

/-- V28. -/
theorem test_isReady : shows (exec (.isReady 0) (ready .bitbang [])) 0x02#8 = some ([], 0x00000001#32) := by decide

/-- V29. -/
theorem test_isReady_hw :
    shows (exec (.isReady 0) { ready .hw [] with env := { Env.idle with ready := [false] } }) 0x02#8 =
      some ([], 0x00000000#32) := by decide

/-- V56: the last byte of the data buffer. -/
theorem test_frame_last_byte :
    (nextOf (exec (.writeCmdData 0 false 0#8 1#16 0xFFFF#16) (ready .bitbang (List.replicate 8 false)))).map
      (fun t => (t.trace.length, t.trace.take 2, t.trace.drop 52, t.owner)) =
      some (54, [.write 20#8 false, .write 21#8 true], [.write 20#8 true, .write 21#8 true], none) := by decide

/-- V59: a NULL slot with a mode-select pin. -/
theorem test_frame_null :
    shows (exec (.writeCmdData 0 true 0x2A#8 2#16 0#16) { ready .bitbang [] with
      slots := State.reset.slots.set 0 { Slot.reset with dc := 21#8 } }) 0x01#8 =
      some ([.err .uninit, .write 21#8 false, .err .uninit, .write 21#8 true, .err .uninit, .err .uninit, .err .uninit,
        .write 21#8 true], 0x00000045#32) := by decide

/-- V67, its first command, through a step: an illegal word. -/
theorem test_step_illegal :
    shows (step (State.reset.withFetchWord 64 0)) 0x01#8 = some ([.err .illegal], 0x00000087#32) := by decide

/-- V70, its second command: LAST_ERR is cleared when a command starts, the sticky bit stays. -/
theorem test_step_clears_last_err :
    shows (step (State.withFetchWord { State.reset with
      status := { Status.reset with lastErr := some .illegal, sIllegal := true } } 64 0xA000000000000000)) 0x01#8 =
      some ([], 0x00000080#32) := by decide

/-- V71: the host clears S_ILLEGAL. -/
theorem test_step_status_clear :
    shows (step (next1 (.writeReg 0x01#8 0x80#32) { State.reset with
      status := { Status.reset with lastErr := some .illegal, sReg := true, sIllegal := true } })) 0x01#8 =
      some ([], 0x00000027#32) := by decide

/-! ### Witnesses: states and operands that meet the hypotheses of the statements, clause by clause -/

/-- The step answers a next state. -/
abbrev goesOn (s : State) : Prop := (nextOf (step s)).isSome = true

/-- The command answers a next state. -/
abbrev completes (i : Instr) (s : State) : Prop := (nextOf (exec i s)).isSome = true

theorem witness_DecodeOfEncodeIsTheInstruction :
    ∀ i ∈ [Instr.setup 0#8 0xFF#8 0xFF#8 true 0xFF#8, .register 15 true .trailing .lsbFirst 0xFF#8 0xFFFFFFFF#32,
      .register 0 false .leading .msbFirst 0#8 1#32, .unregister 15, .setDc 0 0xFF#8, .beginTxn 0, .endTxn 15,
      .transfer 0 0xFFFF#16 1, .transfer 15 0#16 16, .write 0 0#16 1, .write 15 0xFFFF#16 16, .transfer8 0 0xFF#8,
      .isReady 15, .writeCmdData 0 true 0#8 0xFFFF#16 0xFFFF#16], i.wf = true := by decide

theorem witness_AcceptedWordIsItsEncoding :
    decode 0x81100000000000FF#64 = .ok (.write 1 0xFF#16 16) ∧ decode 0x2000FF0000000001#64 =
      .ok (.register 0 false .leading .msbFirst 0xFF#8 1#32) := by decide

theorem witness_ReservedOpcodesAreIllegal :
    (0x0FFFFFFFFFFFFFFF#64).extractLsb' 60 4 = 0x0#4 ∧ (0xC000000000000000#64).extractLsb' 60 4 = 0xC#4 ∧
      (0xD000000000000000#64).extractLsb' 60 4 = 0xD#4 ∧ (0xE000000000000000#64).extractLsb' 60 4 = 0xE#4 ∧
      (0xFFFFFFFFFFFFFFFF#64).extractLsb' 60 4 = 0xF#4 := by decide

theorem witness_IllegalFieldValuesAreRejected : ∀ n ∈ [0, 17, 31], n = 0 ∨ (17 ≤ n ∧ n ≤ 31) := by decide

theorem witness_StepRunsTheDecodedInstruction :
    let s := next1 (.command 0x5000000000000000#64) (ready .bitbang [])
    s.fault = none ∧ s.env.actions = .command 0x5000000000000000#64 :: [] ∧
      decode 0x5000000000000000#64 = .ok (.beginTxn 0) := by decide

theorem witness_IllegalWordReportsSeven :
    let s := next1 (.command 0#64) (ready .bitbang [])
    s.fault = none ∧ s.env.actions = .command 0#64 :: [] ∧ decode 0#64 = .error .reservedOpcode := by decide

theorem witness_RegisterReadChangesNothing :
    let s := next1 (.readReg 0xFF#8) (ready .bitbang [])
    s.fault = none ∧ s.env.actions = .readReg 0xFF#8 :: [] := by decide

/-- The host writes `m` to register `r`. -/
def clearing (r : BitVec 8) (m : RegWord) : State := next1 (.writeReg r m) (ready .bitbang [])

theorem witness_StatusClearClearsTheMaskedBits :
    (clearing 0x01#8 0xFFFFFFFF#32).fault = none ∧
    (clearing 0x01#8 0xFFFFFFFF#32).env.actions = .writeReg 0x01#8 0xFFFFFFFF#32 :: [] ∧
    (clearing 0x00#8 0xF0#32).fault = none ∧
    (clearing 0x00#8 0xF0#32).env.actions = .writeReg 0x00#8 0xF0#32 :: [] ∧ 0x00#8 ≠ 0x01#8 := by decide

theorem witness_BufferWriteSetsItsByteOnly :
    let s := next1 (.writeBuf 0xFFFF#16 0x77#8) (ready .bitbang [])
    s.fault = none ∧ s.env.actions = .writeBuf 0xFFFF#16 0x77#8 :: [] ∧ 0 ≠ (0xFFFF#16 : BitVec 16).toNat := by decide

theorem witness_ResetGivesTheResetValues :
    let s := next1 .reset (held .bitbang 0 [])
    s.fault = none ∧ s.env.actions = .reset :: [] := by decide

theorem witness_FaultedMachineRunsNoCommand :
    ({ ready .bitbang [] with fault := some .busBusy } : State).fault = some .busBusy := by decide

theorem witness_IdleMachineHoldsItsState :
    (ready .bitbang []).fault = none ∧ (ready .bitbang []).env.actions = [] := by decide

theorem witness_RegistersHoldTheirFields : (ready .hw []).owner = none ∧ (held .hw 15 []).owner = some 15 := by decide

theorem witness_ReservedRegistersReadZero :
    ∀ r ∈ [0x06#8, 0x0F#8, 0x30#8, 0xFF#8], (0x06 ≤ r.toNat ∧ r.toNat ≤ 0x0F) ∨ 0x30 ≤ r.toNat := by decide

/-- The state right after reset with slot 0's mode-select pin bound to 21 (V23). -/
def bound : State := { State.reset with slots := State.reset.slots.set 0 { Slot.reset with dc := 21#8 } }

theorem witness_SetupSetsUpTheBusOnce :
    (ready .bitbang []).cstate ≠ .unconfigured ∧
    (bound.cstate = .unconfigured ∧ noPin = noPin) ∧
    (bound.cstate = .unconfigured ∧ 21#8 ≠ noPin ∧ ¬ busPinsFree bound 21#8 11#8 12#8) ∧
    (bound.cstate = .unconfigured ∧ 10#8 ≠ noPin ∧ ¬ busPinsFree bound 10#8 10#8 12#8) ∧
    (bound.cstate = .unconfigured ∧ 10#8 ≠ noPin ∧ busPinsFree bound 10#8 11#8 12#8) ∧
    (bound.cstate = .unconfigured ∧ 0#8 ≠ noPin ∧ busPinsFree bound 0#8 0xFF#8 0xFF#8) := by
  unfold busPinsFree apart
  exact ⟨by decide, by decide, by decide, by decide, by decide, by decide⟩

theorem witness_SetupSetsUpTheBusOnce_factory :
    ({ bound with env := { Env.idle with factory := [.ok] } } : State).factoryAnswer 2#8 10#8 11#8 12#8 = .ok ∧
    ({ bound with env := { Env.idle with factory := [.fail] } } : State).factoryAnswer 2#8 10#8 11#8 12#8 = .fail := by
  decide

theorem witness_RegisterBindsTheSlot :
    (bound.cstate ≠ .readySw ∧ bound.cstate ≠ .readyHw) ∧
    (((ready .bitbang []).cstate = .readySw ∧ Kind.bitbang = .bitbang) ∧ ((ready .bitbang []).slot 0).kind ≠ .null) ∧
    ((ready .hw []).cstate = .readyHw ∧ ((ready .hw []).slot 1).kind ≠ .null) ∧
    (((ready .bitbang []).slot 2).kind = .null ∧ ¬ (offBusAndCs (ready .bitbang []) 20#8 ∧
      ∀ m, apart 20#8 ((ready .bitbang []).slot m).dc)) ∧
    (((ready .bitbang []).slot 2).kind = .null ∧ ¬ (offBusAndCs (ready .bitbang []) 21#8 ∧
      ∀ m, apart 21#8 ((ready .bitbang []).slot m).dc)) ∧
    (((ready .hw []).slot 15).kind = .null ∧ offBusAndCs (ready .hw []) 24#8 ∧
      ∀ m, apart 24#8 ((ready .hw []).slot m).dc) ∧
    (((ready .bitbang []).slot 2).kind = .null ∧ offBusAndCs (ready .bitbang []) 0xFF#8 ∧
      ∀ m, apart 0xFF#8 ((ready .bitbang []).slot m).dc) := by
  unfold offBusAndCs apart
  exact ⟨by decide, by decide, by decide, by decide, by decide, by decide, by decide⟩

theorem witness_UnregisterFreesTheSlot :
    ((held .bitbang 0 []).slot 15).kind = .null ∧
    (((held .bitbang 0 []).slot 0).kind ≠ .null ∧ (held .bitbang 0 []).owner = some 0) ∧
    (((held .bitbang 0 []).slot 1).kind ≠ .null ∧ (held .bitbang 0 []).owner ≠ some 1) := by decide

theorem witness_SetDcBindsAndDrivesData :
    (¬ (offBusAndCs (ready .bitbang []) 10#8 ∧ ∀ m, m ≠ 0 → apart 10#8 ((ready .bitbang []).slot m).dc)) ∧
    (¬ (offBusAndCs (ready .bitbang []) 21#8 ∧ ∀ m, m ≠ 1 → apart 21#8 ((ready .bitbang []).slot m).dc)) ∧
    (offBusAndCs (ready .bitbang []) 21#8 ∧ ∀ m, m ≠ 0 → apart 21#8 ((ready .bitbang []).slot m).dc) ∧
    (offBusAndCs (ready .bitbang []) 0xFF#8 ∧ ∀ m, m ≠ 0 → apart 0xFF#8 ((ready .bitbang []).slot m).dc) := by
  unfold offBusAndCs apart
  exact ⟨by decide, by decide, by decide, by decide⟩

theorem witness_IsReadyAnswersByKind :
    ((ready .bitbang []).slot 0).kind ≠ .hw ∧ ((ready .hw []).slot 15).kind ≠ .hw ∧ ((ready .hw []).slot 0).kind = .hw := by
  decide

theorem witness_BeginTakesTheFreeBus :
    ((ready .bitbang []).slot 2).kind = .null ∧
    (((ready .bitbang []).slot 0).kind ≠ .null ∧ (ready .bitbang []).owner = none) ∧
    (((ready .hw []).slot 1).kind ≠ .null ∧ (ready .hw []).owner = none) ∧
    (((held .bitbang 0 []).slot 0).kind ≠ .null ∧ (held .bitbang 0 []).owner = some 0) ∧
    (((held .bitbang 0 []).slot 1).kind ≠ .null ∧ (held .bitbang 0 []).owner = some 0 ∧ (0 : SlotId) ≠ 1) := by decide

theorem witness_EndReleasesOnlyItsOwnBus :
    ((held .bitbang 0 []).slot 2).kind = .null ∧ ((held .bitbang 0 []).slot 0).kind ≠ .null ∧
      ((held .bitbang 0 []).slot 1).kind ≠ .null := by decide

theorem witness_BeginThenEndChangesChipSelectOnly :
    ((ready .bitbang []).slot 0).kind ≠ .null ∧ (ready .bitbang []).owner = none ∧
      11#8 ≠ ((ready .bitbang []).slot 0).cs ∧ ((ready .bitbang []).slot 0).cs ≠ noPin := by decide

/-- For TransferRunsItsUnit and WriteRunsItsUnit, at both ends of NBITS. -/
theorem witness_TransferRunsItsUnit :
    ∀ n ∈ [1, 16], 1 ≤ n ∧ n ≤ 16 ∧ ((held .bitbang 0 []).slot 2).kind = .null ∧
      (((held .bitbang 0 []).slot 0).kind ≠ .null ∧ (held .bitbang 0 []).owner = some 0) ∧
      (((held .hw 1 []).slot 1).kind ≠ .null ∧ (held .hw 1 []).owner = some 1) ∧
      (((held .bitbang 0 []).slot 1).kind ≠ .null ∧ (held .bitbang 0 []).owner ≠ some 1) := by decide

theorem witness_WriteRunsItsUnit :
    1 ≤ 16 ∧ 16 ≤ 16 ∧ ((ready .hw []).slot 15).kind = .null ∧
      (((held .hw 0 []).slot 0).kind ≠ .null ∧ (held .hw 0 []).owner = some 0) ∧
      (((ready .hw []).slot 0).kind ≠ .null ∧ (ready .hw []).owner ≠ some 0) := by decide

theorem witness_TransferEightRunsItsUnit :
    ((ready .bitbang []).slot 15).kind = .null ∧
      (((held .bitbang 1 []).slot 1).kind ≠ .null ∧ (held .bitbang 1 []).owner = some 1) ∧
      (((ready .bitbang []).slot 1).kind ≠ .null ∧ (ready .bitbang []).owner ≠ some 1) := by decide

theorem witness_UnusedOperandBitsAreIgnored :
    ∀ k, k < 8 → (0xA5F0#16).getLsbD k = (0x00F0#16).getLsbD k := by decide

/-- A ready software bus with data-out on `sdo` and data-in on `sdi`. -/
def wired (sdo sdi : PinId) : State :=
  { ready .bitbang [] with bus := { (ready .bitbang []).bus with sdo := sdo, sdi := sdi } }

/-- All four wirings, at the smallest and the largest count. -/
theorem witness_UnitEventCounts :
    (0 ≤ 16 ∧ 16 ≤ 16) ∧
    ((wired 11#8 12#8).bus.clk ≠ noPin ∧ (wired 11#8 12#8).bus.clk ≠ (wired 11#8 12#8).bus.sdo ∧
      (wired 11#8 12#8).bus.sdo ≠ noPin ∧ (wired 11#8 12#8).bus.sdi ≠ noPin) ∧
    ((wired 0xFF#8 12#8).bus.clk ≠ noPin ∧ (wired 0xFF#8 12#8).bus.clk ≠ (wired 0xFF#8 12#8).bus.sdo ∧
      (wired 0xFF#8 12#8).bus.sdo = noPin ∧ (wired 0xFF#8 12#8).bus.sdi ≠ noPin) ∧
    ((wired 11#8 0xFF#8).bus.clk ≠ noPin ∧ (wired 11#8 0xFF#8).bus.clk ≠ (wired 11#8 0xFF#8).bus.sdo ∧
      (wired 11#8 0xFF#8).bus.sdo ≠ noPin ∧ (wired 11#8 0xFF#8).bus.sdi = noPin) ∧
    ((wired 0xFF#8 0xFF#8).bus.clk ≠ noPin ∧ (wired 0xFF#8 0xFF#8).bus.clk ≠ (wired 0xFF#8 0xFF#8).bus.sdo ∧
      (wired 0xFF#8 0xFF#8).bus.sdo = noPin ∧ (wired 0xFF#8 0xFF#8).bus.sdi = noPin) := by
  exact ⟨by decide, by decide, by decide, by decide, by decide⟩

/-- The one sample of a mode 0 unit of the bit-bang engine. -/
theorem witness_SamplesWhileClockActiveAndDataStable :
    let s := held .bitbang 0 [true]
    s.bus.clk ≠ noPin ∧ s.bus.sdi ≠ noPin ∧ s.bus.clk ≠ s.bus.sdo ∧ s.bus.sdo ≠ noPin ∧
      (bbEngine 0 1#16 1 s).2.trace = s.trace ++
        ([.write 10#8 false, .write 11#8 true, .half, .write 10#8 true] ++ .read s.bus.sdi true ::
          [.half, .write 10#8 false, .alive]) := by decide

/-- The second sample of a mode 3 unit of the hardware-backed engine, and the first of a mode 0 unit without data-out. -/
theorem witness_SamplesWhileClockActiveAndDataStable_hw :
    (hwEngine 1 2#16 2 (held .hw 1 [false, true])).2.trace =
      [.write 10#8 true, .write 10#8 false, .write 11#8 false, .read 12#8 false, .write 10#8 true, .write 10#8 false,
        .write 11#8 true] ++ .read 12#8 true :: [.write 10#8 true] ∧
    (bbEngine 0 1#16 1 { wired 0xFF#8 12#8 with env := { Env.idle with sdi := [true] } }).2.trace =
      [.write 10#8 false, .half, .write 10#8 true] ++ .read 12#8 true :: [.half, .write 10#8 false, .alive] ∧
    (wired 0xFF#8 12#8).bus.clk ≠ noPin ∧ (wired 0xFF#8 12#8).bus.sdi ≠ noPin ∧
      (wired 0xFF#8 12#8).bus.clk ≠ (wired 0xFF#8 12#8).bus.sdo := by decide

theorem witness_UnitLeavesClockIdleAndLastBit :
    let s := held .bitbang 0 (List.replicate 16 true)
    1 ≤ 16 ∧ 16 ≤ 16 ∧ (s.slot 0).kind ≠ .null ∧ s.owner = some 0 ∧ s.bus.clk ≠ noPin ∧ s.bus.clk ≠ s.bus.sdo ∧
      s.bus.sdo ≠ noPin ∧ completes (.transfer 0 0x8001#16 16) s := by decide

theorem witness_LoopbackReturnsTheValue :
    let s := held .bitbang 0 [true, false, true, true]
    1 ≤ 4 ∧ 4 ≤ 16 ∧ (s.slot 0).kind ≠ .null ∧ s.owner = some 0 ∧ s.bus.sdo ≠ noPin ∧ s.bus.sdi ≠ noPin ∧
      ∀ i, i < 4 → s.env.sdiAt i = (0xB#16).getLsbD (bitIndex (s.slot 0).order 4 i) := by decide

/-- No byte, two bytes, and the last byte of the data buffer. -/
theorem witness_FrameSendsCommandAndData :
    let s := ready .bitbang []
    (s.slot 0).kind ≠ .null ∧ s.owner = none ∧
      (0 + 0 ≤ 65536 ∧ bufWritten s.dbuf 0 0) ∧ (0 + 2 ≤ 65536 ∧ bufWritten s.dbuf 0 2) ∧
      ((0xFFFF#16).toNat + (1#16).toNat ≤ 65536 ∧ bufWritten s.dbuf (0xFFFF#16).toNat (1#16).toNat) := by
  unfold bufWritten; decide

theorem witness_FrameOnNullSlotReportsFive :
    (0#16).toNat + (2#16).toNat ≤ 65536 ∧ ((ready .bitbang []).slot 2).kind = .null ∧
      bufWritten (ready .bitbang []).dbuf (0#16).toNat (2#16).toNat ∧
      (0#16).toNat + (3#16).toNat ≤ 65536 ∧ 2 < (3#16).toNat ∧ bufWritten (ready .bitbang []).dbuf (0#16).toNat 2 ∧
      (ready .bitbang []).byteAt ((0#16).toNat + 2) = none := by unfold bufWritten; decide

theorem witness_FrameRangeReportsEight :
    65536 < (0xFFFF#16).toNat + (2#16).toNat ∧ 65536 < (0xFFFF#16).toNat + (0xFFFF#16).toNat := by decide

theorem witness_FrameInsideTransactionFaults :
    (0#16).toNat + (0#16).toNat ≤ 65536 ∧ ((held .bitbang 1 []).slot 0).kind ≠ .null ∧
      ((held .bitbang 1 []).slot 1).kind ≠ .null ∧ (held .bitbang 1 []).owner = some 1 := by decide

theorem witness_UnwrittenByteFaultsAfterItsForerunners :
    let s := ready .bitbang []
    (0#16).toNat + (3#16).toNat ≤ 65536 ∧ (s.slot 0).kind ≠ .null ∧ s.owner = none ∧ 2 < (3#16).toNat ∧
      bufWritten s.dbuf (0#16).toNat 2 ∧ s.byteAt ((0#16).toNat + 2) = none := by unfold bufWritten; decide

/-- A command that completes, one that faults at once, and one that faults on an unwritten byte. -/
theorem witness_CommandsCompleteOrFaultCleanly :
    completes (.beginTxn 0) (ready .bitbang []) ∧
    (faultOf (exec (.beginTxn 0) (held .bitbang 0 []))).map Fault.kind = some .nestedBegin ∧
    (faultOf (exec (.writeCmdData 0 false 0#8 1#16 0x20#16) (ready .bitbang []))).map Fault.kind = some .unwrittenDbuf := by
  decide

theorem witness_OnlySetupOrResetChangesCstate :
    (nextOf (step (next1 (.command 0x10000A0B0C000000#64) State.reset))).map State.cstate = some .readySw ∧
      (next1 (.command 0x10000A0B0C000000#64) State.reset).cstate = .unconfigured := by decide

theorem witness_FailedSetupIsFinal :
    let s := next1 (.command 0x10000A0B0C000000#64) { State.reset with cstate := .failed }
    s.cstate = .failed ∧ goesOn s := by decide

theorem witness_OnlyReturningCommandsWriteResult : completes (.write 0 1#16 1) (held .bitbang 0 [true]) := by decide

theorem witness_OnlyTheHostWritesTheDataBuffer :
    completes (.transfer8 0 0xFF#8) (held .bitbang 0 (List.replicate 8 true)) ∧
    (faultOf (exec (.writeCmdData 0 false 0#8 3#16 0#16) (ready .bitbang (List.replicate 16 true)))).map Fault.kind =
      some .unwrittenDbuf := by decide

theorem witness_DescriptorIsWrittenOnce :
    completes (.setup 1#8 2#8 3#8 false 0#8) (ready .bitbang []) ∧ (ready .bitbang []).cstate ≠ .unconfigured := by decide

theorem witness_OnlySetDcBindsModeSelect : completes (.unregister 0) (ready .bitbang []) := by decide

theorem witness_CommandsAppendAndReport :
    let s := { ready .bitbang [] with
      status := { lastErr := none, sFatal := true, sReg := true, sUninit := true, sIllegal := true } }
    completes (.unregister 2) s ∧ s.status.sFatal = true ∧ s.status.sReg = true ∧ s.status.sUninit = true ∧
      s.status.sIllegal = true := by decide

theorem witness_CanonicalBuffersAreEqualData :
    Memory.wf (ready .bitbang []).dbuf ∧ Memory.wf (ready .hw []).dbuf ∧
      ∀ a, Cells.read (ready .bitbang []).dbuf a = Cells.read (ready .hw []).dbuf a :=
  ⟨by decide, by decide, fun _ => rfl⟩

/-! ### Witnesses of the invariants: a state with two registered slots, a bound mode-select pin and a command to come -/

/-- BEGIN of slot 0 is the next action. -/
def atBegin : State := next1 (.command 0x5000000000000000#64) (ready .bitbang [])

theorem witness_StepKeepsDelegateInvariants : DelegateInv atBegin ∧ goesOn atBegin :=
  ⟨⟨by decide, by decide, by decide, by decide⟩, by decide⟩

theorem witness_StepKeepsSlotConfiguration : SlotInv atBegin ∧ goesOn atBegin := ⟨⟨by decide, by decide⟩, by decide⟩

theorem witness_StepKeepsDescriptor : BusInv atBegin ∧ goesOn atBegin :=
  ⟨⟨by decide, by decide, by decide⟩, by decide⟩

theorem witness_StepKeepsPinRolesApart : DelegateInv atBegin ∧ PinRoles atBegin ∧ goesOn atBegin :=
  ⟨witness_StepKeepsDelegateInvariants.1,
    ⟨by unfold apart; decide, by unfold apart; decide, by unfold apart; decide, by unfold apart; decide,
      by unfold apart; decide, by unfold apart; decide⟩, by decide⟩

theorem witness_StepKeepsSelectLinesAtRest :
    DelegateInv atBegin ∧ PinRoles atBegin ∧ ChipSelectInv atBegin ∧ ModeSelectInv atBegin ∧ goesOn atBegin :=
  ⟨witness_StepKeepsDelegateInvariants.1, witness_StepKeepsPinRolesApart.2.1, by unfold ChipSelectInv; decide,
    by unfold ModeSelectInv; decide, by decide⟩

/-- `atBegin` with the trace that gave its levels. -/
def traced : State :=
  { atBegin with trace := [.write 10#8 true, .write 20#8 true, .write 21#8 true, .write 22#8 true] }

theorem witness_StepKeepsRecordsOfTheTrace : TraceInv traced ∧ goesOn traced :=
  ⟨⟨by decide, by decide⟩, by decide⟩

theorem witness_StepKeepsCanonicalForm : CellsInv atBegin ∧ goesOn atBegin :=
  ⟨⟨by decide, by decide, by decide⟩, by decide⟩

end Sys2Proof.Tests
end

/-!
The family of 00_scope.md (R15): a step runs the command its word decodes to, and no outcome is a refusal.
-/

namespace Sys2Proof.Machine

/-! ### A step on a command word -/

/-- The step on an accepted word, from the state with the action taken and LAST_ERR cleared (R223, R231). -/
theorem step_command_ok {s : State} {w : Command} {rest : List HostAction} {i : Instr} (hf : s.fault = none)
    (ha : s.env.actions = .command w :: rest) (hd : decode w = .ok i) :
    step s = exec i (s.taken rest).startCommand := by
  rw [step_action hf ha, runAction, runCommand, hd]

/-- Settles O6: `step_command_ok`, with the state it starts from written out. -/
theorem stepRunsTheDecodedInstruction : Obligations.StepRunsTheDecodedInstruction := by
  unfold Obligations.StepRunsTheDecodedInstruction
  intro s w rest i hf ha hd
  exact step_command_ok hf ha hd

/-! ### Outcomes that are no refusal -/

/-- The outcome is a next state or a fault (R15). -/
def NotRefused (r : Result) : Prop := ∀ x, r ≠ .refused x

theorem notRefused_next (s : State) : NotRefused (.next s) := by simp [NotRefused]

theorem notRefused_fault (f : Fault) : NotRefused (.fault f) := by simp [NotRefused]

theorem notRefused_complete (s : State) : NotRefused (complete s) := notRefused_next _

theorem notRefused_raise (k : FaultKind) (s : State) : NotRefused (raise k s) := raise_ne_refused k s

/-- A sequence is not refused when none of its parts is. -/
theorem NotRefused.andThen {r : Result} {f : State → Result} (hr : NotRefused r) (hf : ∀ s, NotRefused (f s)) :
    NotRefused (andThen r f) := by
  intro x h
  rcases andThen_eq_refused.mp h with h | ⟨u, -, h⟩
  · exact hr x h
  · exact hf u x h

/-- A sequence that completes the command is not refused when its first part is not. -/
theorem NotRefused.andThen_complete {r : Result} (hr : NotRefused r) : NotRefused (Machine.andThen r complete) :=
  hr.andThen notRefused_complete

/-! ### The shared operations -/

theorem requireOwner_notRefused (d : SlotId) (s : State) : NotRefused (requireOwner d s) := by
  rw [requireOwner_eq]
  split
  · exact notRefused_next _
  · exact notRefused_raise _ _

theorem takeBus_notRefused (d : SlotId) (s : State) : NotRefused (takeBus d s) := by
  rcases takeBus_cases d s with ⟨-, h⟩ | ⟨-, h⟩ | ⟨_, -, -, h⟩ <;> rw [h]
  · exact notRefused_next _
  · exact notRefused_raise _ _
  · exact notRefused_raise _ _

theorem beginStep_notRefused (d : SlotId) (s : State) : NotRefused (beginStep d s) := by
  by_cases h : (s.slot d).kind = .null
  · rw [beginStep_null h]; exact notRefused_next _
  · rw [beginStep_registered h]; exact takeBus_notRefused d s

theorem endStep_notRefused (d : SlotId) (s : State) : NotRefused (endStep d s) := by
  by_cases h : (s.slot d).kind = .null
  · rw [endStep_null h]; exact notRefused_next _
  · rw [endStep_registered h]; exact notRefused_next _

theorem writeStep_notRefused (d : SlotId) (v : XferWord) (n : Nat) (s : State) : NotRefused (writeStep d v n s) := by
  by_cases h : (s.slot d).kind = .null
  · rw [writeStep_null v n h]; exact notRefused_next _
  · rw [writeStep_registered v n h]
    split
    · exact notRefused_next _
    · exact notRefused_raise _ _

/-! ### The parts of a frame -/

theorem sendCommand_notRefused (d : SlotId) (cp : Bool) (cmd : Byte) (s : State) :
    NotRefused (sendCommand d cp cmd s) := by
  cases cp with
  | false => exact notRefused_next _
  | true => exact writeStep_notRefused _ _ _ _

/-- By induction on the bytes still to send: an unwritten one faults, a written one is a write step. -/
theorem sendBytes_notRefused (d : SlotId) (n : Nat) : ∀ (a : Nat) (s : State), NotRefused (sendBytes d a n s) := by
  induction n with
  | zero => exact fun _ s => notRefused_next s
  | succ n ih =>
    intro a s
    cases h : s.memRead a with
    | none => simp only [sendBytes, h]; exact notRefused_raise _ _
    | some b => simp only [sendBytes, h]; exact (writeStep_notRefused _ _ _ _).andThen (ih _)

theorem sendData_notRefused (d : SlotId) (len addr : BitVec 16) (s : State) : NotRefused (sendData d len addr s) := by
  unfold sendData
  split
  · exact notRefused_next _
  · exact sendBytes_notRefused _ _ _ _

theorem sendFrame_notRefused (d : SlotId) (cp : Bool) (cmd : Byte) (len addr : BitVec 16) (s : State) :
    NotRefused (sendFrame d cp cmd len addr s) :=
  (((beginStep_notRefused d s).andThen (sendCommand_notRefused d cp cmd)).andThen
    (sendData_notRefused d len addr)).andThen
      fun t => (endStep_notRefused d t).andThen fun _ => notRefused_next _

/-! ### The commands -/

theorem setupHw_notRefused (clk sdo sdi : PinId) (iface : BitVec 8) (s : State) :
    NotRefused (setupHw clk sdo sdi iface s) := by
  simp only [setupHw]
  split
  · exact notRefused_complete _
  · exact notRefused_complete _

theorem execSetup_notRefused (clk sdo sdi : PinId) (hw : Bool) (iface : BitVec 8) (s : State) :
    NotRefused (execSetup clk sdo sdi hw iface s) := by
  unfold execSetup
  split_ifs
  · exact notRefused_complete _
  · exact notRefused_complete _
  · exact notRefused_raise _ _
  · exact setupHw_notRefused _ _ _ _ _
  · exact notRefused_complete _

theorem execRegister_notRefused (d : SlotId) (cpol : Level) (cpha : ClockPhase) (order : BitOrder) (cs : PinId)
    (rate : BitVec 32) (s : State) : NotRefused (execRegister d cpol cpha order cs rate s) := by
  unfold execRegister
  split
  · exact notRefused_complete _
  · split_ifs
    · exact notRefused_complete _
    · exact notRefused_raise _ _
    · exact notRefused_complete _

theorem execUnregister_notRefused (d : SlotId) (s : State) : NotRefused (execUnregister d s) := by
  unfold execUnregister
  split_ifs
  · exact notRefused_complete _
  · exact notRefused_raise _ _
  · exact notRefused_complete _

theorem execSetDc_notRefused (d : SlotId) (dc : PinId) (s : State) : NotRefused (execSetDc d dc s) := by
  unfold execSetDc
  split
  · exact notRefused_raise _ _
  · exact notRefused_complete _

theorem execIsReady_notRefused (d : SlotId) (s : State) : NotRefused (execIsReady d s) := by
  unfold execIsReady
  split <;> exact notRefused_complete _

/-- TRANSFER completes on a NULL slot and on the owner, and faults on any other slot (R150, R177). -/
theorem execTransfer_notRefused (d : SlotId) (v : XferWord) (n : Nat) (s : State) :
    NotRefused (execTransfer d v n s) := by
  unfold execTransfer
  split
  · exact notRefused_complete _
  · exact (requireOwner_notRefused d s).andThen fun _ => notRefused_complete _
  · exact (requireOwner_notRefused d s).andThen fun _ => notRefused_complete _

theorem execTransfer8_notRefused (d : SlotId) (b : Byte) (s : State) : NotRefused (execTransfer8 d b s) := by
  unfold execTransfer8
  split
  · exact notRefused_complete _
  · exact (requireOwner_notRefused d s).andThen fun _ => notRefused_complete _
  · exact (requireOwner_notRefused d s).andThen fun _ => notRefused_complete _

theorem execWriteCmdData_notRefused (d : SlotId) (cp : Bool) (cmd : Byte) (len addr : BitVec 16) (s : State) :
    NotRefused (execWriteCmdData d cp cmd len addr s) := by
  unfold execWriteCmdData
  split
  · exact notRefused_complete _
  · exact (sendFrame_notRefused _ _ _ _ _ _).andThen_complete

/-- No command is refused (R15). -/
theorem exec_notRefused (i : Instr) (s : State) : NotRefused (exec i s) := by
  cases i with
  | setup clk sdo sdi hw iface => exact execSetup_notRefused clk sdo sdi hw iface s
  | register d cpol cpha order cs rate => exact execRegister_notRefused d cpol cpha order cs rate s
  | unregister d => exact execUnregister_notRefused d s
  | setDc d dc => exact execSetDc_notRefused d dc s
  | beginTxn d => exact (beginStep_notRefused d s).andThen_complete
  | endTxn d => exact (endStep_notRefused d s).andThen_complete
  | transfer d value nbits => exact execTransfer_notRefused d value nbits s
  | write d value nbits => exact (writeStep_notRefused d value nbits s).andThen_complete
  | transfer8 d byte => exact execTransfer8_notRefused d byte s
  | isReady d => exact execIsReady_notRefused d s
  | writeCmdData d cp cmd len addr => exact execWriteCmdData_notRefused d cp cmd len addr s

/-! ### The step -/

/-- A command word is not refused: an accepted one is a command, any other is the illegal command (R98). -/
theorem runCommand_notRefused (w : Command) (s : State) : NotRefused (runCommand w s) := by
  unfold runCommand
  split
  · exact exec_notRefused _ _
  · exact notRefused_complete _

theorem runAction_notRefused (a : HostAction) (s : State) : NotRefused (runAction a s) := by
  cases a with
  | command w => exact runCommand_notRefused w s
  | readReg r => exact notRefused_next _
  | writeReg r m => exact notRefused_next _
  | writeBuf a b => exact notRefused_next _
  | reset => exact notRefused_next _

/-- No step is refused: faulted, idle or serving the host's next action (R15). -/
theorem step_notRefused (s : State) : NotRefused (step s) := by
  cases hf : s.fault with
  | some k => rw [step_faulted hf]; exact notRefused_fault _
  | none =>
    cases ha : s.env.actions with
    | nil => rw [step_idle hf ha]; exact notRefused_next _
    | cons a rest => rw [step_action hf ha]; exact runAction_notRefused _ _

/-- Settles O41, from one lemma per command and the three things a step can serve. -/
theorem nothingIsRefused : Obligations.NothingIsRefused := by
  unfold Obligations.NothingIsRefused
  intro s i r
  exact ⟨exec_notRefused i s r, step_notRefused s r⟩

end Sys2Proof.Machine

/-!
The family of 10_state.md. What a command can do is said once (`exec_outcome`): which registers it changes
(`Effect`), what it leaves and records besides (`Follows`), and how it may fault. The state invariants and the rules of
the registers follow from it, at the step through `step_regs` and `step_keeps`.
-/

namespace Sys2Proof.Machine

/-! ### What every command leaves, and what it records -/

/-- STATUS after the reports among the events (R232). -/
def Status.after : Status → List Event → Status
  | t, [] => t
  | t, .err c :: es => (t.report c).after es
  | t, _ :: es => t.after es

theorem Status.after_append (t : Status) (es fs : List Event) : t.after (es ++ fs) = (t.after es).after fs := by
  induction es generalizing t with
  | nil => rfl
  | cons e es ih => cases e <;> exact ih _

/-- Events without a report leave STATUS. -/
theorem Status.after_of_no_report {es : List Event} (t : Status) (h : ∀ c, .err c ∉ es) : t.after es = t := by
  induction es with
  | nil => rfl
  | cons e es ih =>
    have hes := ih fun c hc => h c (List.mem_cons_of_mem _ hc)
    cases e with
    | err c => exact absurd List.mem_cons_self (h c)
    | _ => exact hes

theorem Status.lastErr_report (t : Status) (c : ErrCode) : (t.report c).lastErr = some c := by
  cases c <;> rfl

/-- LAST_ERR is the code of the last report (R24). -/
theorem Status.lastErr_after (t : Status) (es : List Event) : (t.after es).lastErr = lastReport es t.lastErr := by
  induction es generalizing t with
  | nil => rfl
  | cons e es ih =>
    cases e with
    | err c => simp only [Status.after, lastReport, ih, Status.lastErr_report]
    | _ => exact ih t

/-- Every sticky bit of `t` is set in `u`. -/
structure Status.StickyLe (t u : Status) : Prop where
  fatal : t.sFatal = true → u.sFatal = true
  reg : t.sReg = true → u.sReg = true
  uninit : t.sUninit = true → u.sUninit = true
  illegal : t.sIllegal = true → u.sIllegal = true

theorem Status.StickyLe.refl (t : Status) : t.StickyLe t := ⟨id, id, id, id⟩

theorem Status.StickyLe.trans {t u v : Status} (h : t.StickyLe u) (g : u.StickyLe v) : t.StickyLe v :=
  ⟨g.fatal ∘ h.fatal, g.reg ∘ h.reg, g.uninit ∘ h.uninit, g.illegal ∘ h.illegal⟩

theorem Status.stickyLe_report (t : Status) (c : ErrCode) : t.StickyLe (t.report c) := by
  cases c <;> constructor <;> simp [Status.report]

/-- Reports clear no sticky bit (R24, R233). -/
theorem Status.stickyLe_after (t : Status) (es : List Event) : t.StickyLe (t.after es) := by
  induction es generalizing t with
  | nil => exact .refl t
  | cons e es ih =>
    cases e with
    | err c => exact (t.stickyLe_report c).trans (ih _)
    | _ => exact ih t

/-- `t` comes from `s` by operations of a command before its end: events are recorded, STATUS takes the reports among
them, and `pc`, the data buffer, the fault mark and the parameters stay. -/
structure Follows (s t : State) : Prop where
  pc : t.pc = s.pc
  dbuf : t.dbuf = s.dbuf
  fault : t.fault = s.fault
  params : t.params = s.params
  log : ∃ es, Records s t es ∧ t.status = s.status.after es

theorem Follows.refl (s : State) : Follows s s := ⟨rfl, rfl, rfl, rfl, [], .refl rfl rfl rfl, rfl⟩

theorem Follows.trans {s t u : State} (h : Follows s t) (g : Follows t u) : Follows s u := by
  obtain ⟨es, hr, hs⟩ := h.log
  obtain ⟨fs, gr, gs⟩ := g.log
  exact ⟨g.pc.trans h.pc, g.dbuf.trans h.dbuf, g.fault.trans h.fault, g.params.trans h.params, es ++ fs, hr.trans gr,
    by rw [gs, hs, Status.after_append]⟩

/-- Sampling and driving pins without a report, as the engine does (R143). -/
theorem Follows.of_sampled {s t : State} {es : List Event} {j : Nat} (hr : Records s t es) (hm : Sampled s j t)
    (hes : ∀ c, .err c ∉ es) : Follows s t := by
  obtain ⟨hpc, -, hst, -, -, -, -, -, hdb, hfl, hpa, -⟩ := hm.rest
  exact ⟨hpc, hdb, hfl, hpa, es, hr, by rw [hst, Status.after_of_no_report _ hes]⟩

theorem State.report_follows (c : ErrCode) (s : State) : Follows s (s.report c) :=
  ⟨rfl, rfl, rfl, rfl, _, s.report_records c, rfl⟩

theorem writeEvent_no_report (p : PinId) (b : Level) (c : ErrCode) : .err c ∉ writeEvent p b := by
  unfold writeEvent; split <;> simp

theorem State.pinWrite_follows (p : PinId) (b : Level) (s : State) : Follows s (s.pinWrite p b) :=
  .of_sampled (s.pinWrite_records p b) (s.pinWrite_sampled p b) (writeEvent_no_report p b)

theorem State.modeSelect_follows (d : SlotId) (b : Level) (s : State) : Follows s (s.modeSelect d b) :=
  s.pinWrite_follows _ _

theorem State.pinSetup_follows (p : PinId) (x : Dir) (s : State) : Follows s (s.pinSetup p x) := by
  refine ⟨by simp, by simp, by simp, by simp, _, s.pinSetup_records p x, ?_⟩
  rw [State.pinSetup_status, Status.after_of_no_report]
  unfold setupEvent; split <;> simp

theorem bitEvents_no_report (timed : Bool) (c : Slot) (b : Bus) (v : XferWord) (k : Nat) (a : Level) (x : ErrCode) :
    .err x ∉ bitEvents timed c b v k a := by
  have hread : .err x ∉ readEvent b.sdi a := by unfold readEvent; split <;> simp
  have hhalf : .err x ∉ timedEvent timed .half := by cases timed <;> simp [timedEvent]
  unfold bitEvents
  cases c.cpha <;> simp [writeEvent_no_report, hread, hhalf]

/-- A transfer unit makes no report (R143). -/
theorem unitEvents_no_report (timed : Bool) (c : Slot) (b : Bus) (v : XferWord) (n : Nat) (ans : Nat → Level)
    (x : ErrCode) : .err x ∉ unitEvents timed c b v n ans := by
  have halive : .err x ∉ timedEvent timed .alive := by cases timed <;> simp [timedEvent]
  simp [unitEvents, writeEvent_no_report, bitEvents_no_report, halive]

theorem engine_follows (timed : Bool) (d : SlotId) (v : XferWord) (n : Nat) (s : State) :
    Follows s (engine timed d v n s).2 := by
  obtain ⟨hr, hm, -⟩ := engine_spec timed d v n s
  exact .of_sampled hr hm (unitEvents_no_report _ _ _ _ _ _)

/-! ### The registers a command may change -/

/-- The registers besides STATUS agree: STATE, RESULT, OWNER, the descriptor and the slots. -/
structure SameRegs (t s : State) : Prop where
  cstate : t.cstate = s.cstate
  result : t.result = s.result
  owner : t.owner = s.owner
  bus : t.bus = s.bus
  slots : t.slots = s.slots

theorem SameRegs.refl (s : State) : SameRegs s s := ⟨rfl, rfl, rfl, rfl, rfl⟩

theorem SameRegs.trans {s t u : State} (g : SameRegs u t) (h : SameRegs t s) : SameRegs u s :=
  ⟨g.cstate.trans h.cstate, g.result.trans h.result, g.owner.trans h.owner, g.bus.trans h.bus, g.slots.trans h.slots⟩

theorem SameRegs.slot {s t : State} (h : SameRegs t s) (m : SlotId) : t.slot m = s.slot m := by
  simp only [State.slot, h.slots]

theorem Sampled.sameRegs {s t : State} {j : Nat} (h : Sampled s j t) : SameRegs t s := by
  obtain ⟨-, hc, -, hr, ho, hb, hsl, -⟩ := h.rest
  exact ⟨hc, hr, ho, hb, hsl⟩

theorem State.report_sameRegs (c : ErrCode) (s : State) : SameRegs (s.report c) s := ⟨rfl, rfl, rfl, rfl, rfl⟩

theorem State.modeSelect_sameRegs (d : SlotId) (b : Level) (s : State) : SameRegs (s.modeSelect d b) s :=
  (s.modeSelect_sampled d b).sameRegs

theorem engine_sameRegs (timed : Bool) (d : SlotId) (v : XferWord) (n : Nat) (s : State) :
    SameRegs (engine timed d v n s).2 s :=
  (engine_spec timed d v n s).2.1.sameRegs

/-- A change of registers besides STATUS, or of the environment, records nothing. -/
theorem Follows.setRegs {s : State} {c : CState} {v : XferWord} {o : Option SlotId} {b : Bus} {sl : Vector Slot 16}
    {e : Env} :
    Follows s { s with cstate := c, result := v, owner := o, bus := b, slots := sl, env := e } :=
  ⟨rfl, rfl, rfl, rfl, [], .refl rfl rfl rfl, rfl⟩

theorem State.setSlot_follows (d : SlotId) (c : Slot) (s : State) : Follows s (s.setSlot d c) := .setRegs

theorem State.setResult_follows (v : XferWord) (s : State) : Follows s (s.setResult v) := .setRegs

/-- The commands that write RESULT (R25). -/
def returnsValue : Instr → Bool
  | .transfer _ _ _ => true
  | .transfer8 _ _ => true
  | .isReady _ => true
  | _ => false

/-- What a command does to the registers besides STATUS, from `s`: nothing, or the change its rule names under the
conditions its rule asks for. -/
inductive Effect (s : State) : Instr → State → Prop
  /-- The command only reports, samples or drives pins; a frame that completes has released the bus again. -/
  | none (i : Instr) : Effect s i s
  /-- A SETUP that fails (R112, R114). -/
  | setupFails {clk sdo sdi : PinId} {hw : Bool} {iface : BitVec 8} (hc : s.cstate = .unconfigured) :
      Effect s (.setup clk sdo sdi hw iface) { s with cstate := .failed }
  /-- A SETUP that succeeds (R112). -/
  | setup {clk sdo sdi : PinId} {hw : Bool} {iface : BitVec 8} (hc : s.cstate = .unconfigured) (hclk : clk ≠ noPin)
      (hfree : busPinsFree s clk sdo sdi) :
      Effect s (.setup clk sdo sdi hw iface) (s.setBus clk sdo sdi hw iface (if hw then .readyHw else .readySw))
  /-- REGISTER binds the slot (R118). -/
  | register {d : SlotId} {cpol : Level} {cpha : ClockPhase} {order : BitOrder} {cs : PinId} {rate : BitVec 32} {k : Kind}
      (hk : s.cstate.delegate = some k) (hnull : (s.slot d).kind = .null) (hcs : offBusAndCs s cs)
      (hdc : ∀ m, apart cs (s.slot m).dc) :
      Effect s (.register d cpol cpha order cs rate) (s.setSlot d
        { s.slot d with kind := k, cpol := cpol, cpha := cpha, order := order, cs := cs, rate := rate })
  /-- UNREGISTER frees the slot and keeps its DC (R124, R39). -/
  | unregister {d : SlotId} (hk : (s.slot d).kind ≠ .null) (ho : s.owner ≠ some d) :
      Effect s (.unregister d) (s.setSlot d { Slot.reset with dc := (s.slot d).dc })
  /-- SET_DC binds the mode-select pin (R127). -/
  | setDc {d : SlotId} {dc : PinId} (hcs : offBusAndCs s dc) (hdc : ∀ m, m ≠ d → apart dc (s.slot m).dc) :
      Effect s (.setDc d dc) (s.setSlot d { s.slot d with dc := dc })
  /-- BEGIN takes the free bus (R180). -/
  | beginTxn {d : SlotId} (hk : (s.slot d).kind ≠ .null) (ho : s.owner = Option.none) :
      Effect s (.beginTxn d) { s with owner := some d }
  /-- END releases the bus of its slot (R184). -/
  | endTxn {d : SlotId} (ho : s.owner = some d) : Effect s (.endTxn d) { s with owner := Option.none }
  /-- TRANSFER, TRANSFER8 and IS_READY write RESULT (R25). -/
  | result {i : Instr} (hi : returnsValue i = true) (v : XferWord) : Effect s i (s.setResult v)

/-! ### The outcomes of a command -/

/-- Every way a command ends: it completes, with its effect on the registers; it faults before it did anything; or it
faults on an unwritten byte (R236). -/
inductive CommandOutcome (s : State) (i : Instr) : Result → Prop
  | completes {u v : State} (he : Effect s i v) (hu : Follows s u) (hv : SameRegs u v) : CommandOutcome s i (complete u)
  | faults (k : FaultKind) : CommandOutcome s i (raise k s)
  | unwritten {u : State} (hu : Follows s u) : CommandOutcome s i (raise .unwrittenDbuf u)

/-- A command that changes no register besides STATUS. -/
theorem CommandOutcome.quiet {s u : State} {i : Instr} (hu : Follows s u) (hv : SameRegs u s) :
    CommandOutcome s i (complete u) := .completes (.none i) hu hv

theorem reportAndComplete_outcome (c : ErrCode) (i : Instr) (s : State) :
    CommandOutcome s i (reportAndComplete c s) := .quiet (s.report_follows c) (s.report_sameRegs c)

theorem setupFails_outcome {clk sdo sdi : PinId} {hw : Bool} {iface : BitVec 8} {s u : State} (c : ErrCode)
    (hc : s.cstate = .unconfigured) (hu : Follows s u) (hv : SameRegs u s) :
    CommandOutcome s (.setup clk sdo sdi hw iface) (setupFails c u) :=
  .completes (.setupFails hc) ((hu.trans (u.report_follows c)).trans .setRegs)
    ⟨rfl, hv.result, hv.owner, hv.bus, hv.slots⟩

/-- A request to the factory is recorded (R112). -/
theorem factory_follows (r : FactoryAnswer) (e : Env) (s : State) :
    Follows s (State.emit (.factory r) { s with env := e }) :=
  ⟨rfl, rfl, rfl, rfl, [.factory r], ⟨rfl, fun _ => rfl, fun _ => rfl⟩, rfl⟩

theorem setupHw_outcome {clk sdo sdi : PinId} {iface : BitVec 8} {s : State} (hc : s.cstate = .unconfigured)
    (hclk : clk ≠ noPin) (hfree : busPinsFree s clk sdo sdi) :
    CommandOutcome s (.setup clk sdo sdi true iface) (setupHw clk sdo sdi iface s) := by
  simp only [setupHw, State.drawFactory_eq]
  split
  · exact setupFails_outcome _ hc (factory_follows _ _ s) ⟨rfl, rfl, rfl, rfl, rfl⟩
  · exact .completes (.setup hc hclk hfree)
      ((factory_follows _ _ s).trans .setRegs) ⟨rfl, rfl, rfl, rfl, rfl⟩

theorem setupSw_outcome {clk sdo sdi : PinId} {iface : BitVec 8} {s : State} (hc : s.cstate = .unconfigured)
    (hclk : clk ≠ noPin) (hfree : busPinsFree s clk sdo sdi) :
    CommandOutcome s (.setup clk sdo sdi false iface) (setupSw clk sdo sdi iface s) := by
  have hbus : Follows s (s.setBus clk sdo sdi false iface .readySw) := .setRegs
  exact .completes (.setup hc hclk hfree)
    ((((hbus.trans (State.pinSetup_follows _ _ _)).trans (State.pinWrite_follows _ _ _)).trans
      (State.pinSetup_follows _ _ _)).trans (State.pinSetup_follows _ _ _))
    (by constructor <;> simp)

theorem execSetup_outcome (clk sdo sdi : PinId) (hw : Bool) (iface : BitVec 8) (s : State) :
    CommandOutcome s (.setup clk sdo sdi hw iface) (execSetup clk sdo sdi hw iface s) := by
  unfold execSetup
  split
  · exact reportAndComplete_outcome _ _ _
  · rename_i hc
    have hc := not_not.mp hc
    split
    · exact setupFails_outcome _ hc (.refl s) (.refl s)
    · rename_i hclk
      split
      · exact .faults _
      · rename_i ha
        have hfree := not_not.mp (mt State.setupAlias_iff.mpr ha)
        cases hw with
        | true => exact setupHw_outcome hc hclk hfree
        | false => exact setupSw_outcome hc hclk hfree

/-- A pin becomes an output and takes its level at once (R118, R126). -/
theorem drive_follows (p : PinId) (b : Level) (s : State) : Follows s ((s.pinSetup p .output).pinWrite p b) :=
  (s.pinSetup_follows p .output).trans (State.pinWrite_follows p b _)

theorem drive_sameRegs (p : PinId) (b : Level) (s : State) : SameRegs ((s.pinSetup p .output).pinWrite p b) s := by
  constructor <;> simp

theorem execRegister_outcome (d : SlotId) (cpol : Level) (cpha : ClockPhase) (order : BitOrder) (cs : PinId)
    (rate : BitVec 32) (s : State) :
    CommandOutcome s (.register d cpol cpha order cs rate) (execRegister d cpol cpha order cs rate s) := by
  unfold execRegister
  split
  · exact reportAndComplete_outcome _ _ _
  · rename_i k hk
    split
    · exact reportAndComplete_outcome _ _ _
    · rename_i hnull
      split
      · exact .faults _
      · rename_i ha
        obtain ⟨hcs, hdc⟩ := not_not.mp (mt State.registerAlias_iff.mpr ha)
        exact .completes (.register hk (not_not.mp hnull) hcs hdc)
          ((s.setSlot_follows d _).trans (drive_follows cs _ _)) (drive_sameRegs cs _ _)

theorem execUnregister_outcome (d : SlotId) (s : State) : CommandOutcome s (.unregister d) (execUnregister d s) := by
  unfold execUnregister
  split
  · exact reportAndComplete_outcome _ _ _
  · rename_i hk
    split
    · exact .faults _
    · rename_i ho
      exact .completes (.unregister hk ho) (s.setSlot_follows d _) (.refl _)

theorem execSetDc_outcome (d : SlotId) (dc : PinId) (s : State) :
    CommandOutcome s (.setDc d dc) (execSetDc d dc s) := by
  unfold execSetDc
  split
  · exact .faults _
  · rename_i ha
    obtain ⟨hcs, hdc⟩ := not_not.mp (mt State.dcAlias_iff.mpr ha)
    exact .completes (.setDc hcs hdc) ((s.setSlot_follows d _).trans (drive_follows dc _ _)) (drive_sameRegs dc _ _)

/-- RESULT is written at the end of a command that returns a value (R25). -/
theorem setResult_outcome {s u : State} {i : Instr} (hi : returnsValue i = true) (hu : Follows s u)
    (hv : SameRegs u s) (x : XferWord) : CommandOutcome s i (complete (u.setResult x)) :=
  .completes (.result hi x) (hu.trans (u.setResult_follows x)) ⟨hv.cstate, rfl, hv.owner, hv.bus, hv.slots⟩

theorem State.drawReady_follows (d : SlotId) (s : State) : Follows s (s.drawReady d).2 := by
  rw [State.drawReady_eq]
  exact .setRegs

theorem State.drawReady_sameRegs (d : SlotId) (s : State) : SameRegs (s.drawReady d).2 s := by
  constructor <;> simp

theorem execIsReady_outcome (d : SlotId) (s : State) : CommandOutcome s (.isReady d) (execIsReady d s) := by
  unfold execIsReady
  split
  · exact setResult_outcome rfl (.refl s) (.refl s) _
  · exact setResult_outcome rfl (.refl s) (.refl s) _
  · exact setResult_outcome rfl (s.drawReady_follows d) (s.drawReady_sameRegs d) _

/-! ### Transfers and the bracket -/

theorem execTransfer_outcome (d : SlotId) (v : XferWord) (n : Nat) (s : State) :
    CommandOutcome s (.transfer d v n) (execTransfer d v n s) := by
  by_cases hk : (s.slot d).kind = .null
  · simp only [execTransfer, hk]
    exact setResult_outcome rfl (s.report_follows .uninit) (s.report_sameRegs .uninit) _
  · rw [execTransfer_registered v n hk]
    split
    · exact setResult_outcome rfl (engine_follows _ _ _ _ _) (engine_sameRegs _ _ _ _ _) _
    · exact .faults _

theorem execTransfer8_outcome (d : SlotId) (b : Byte) (s : State) :
    CommandOutcome s (.transfer8 d b) (execTransfer8 d b s) := by
  by_cases hk : (s.slot d).kind = .null
  · simp only [execTransfer8, hk]
    exact setResult_outcome rfl (s.report_follows .uninit) (s.report_sameRegs .uninit) _
  · rw [execTransfer8_registered b hk]
    split
    · exact setResult_outcome rfl (engine_follows _ _ _ _ _) (engine_sameRegs _ _ _ _ _) _
    · exact .faults _

theorem execWrite_outcome (d : SlotId) (v : XferWord) (n : Nat) (s : State) :
    CommandOutcome s (.write d v n) (execWrite d v n s) := by
  unfold execWrite
  by_cases hk : (s.slot d).kind = .null
  · rw [writeStep_null v n hk]
    exact reportAndComplete_outcome _ _ _
  · rw [writeStep_registered v n hk]
    split
    · exact .quiet (engine_follows _ _ _ _ _) (engine_sameRegs _ _ _ _ _)
    · exact .faults _

/-- The state in which the bracket's start has taken the free bus (R180). -/
theorem beginStep_takes {d : SlotId} {s : State} (hk : (s.slot d).kind ≠ .null) (ho : s.owner = none) :
    ∃ t, beginStep d s = .next t ∧ Follows s t ∧ SameRegs t { s with owner := some d } := by
  obtain ⟨t, ht, hr, hm⟩ := beginStep_free hk ho
  have hset : Follows s { s with owner := some d } := .setRegs
  exact ⟨t, ht, hset.trans (.of_sampled (hr.left rfl rfl rfl) hm (writeEvent_no_report _ _)), hm.sameRegs⟩

/-- The bracket's start on a registered slot and a bus that is not free faults before it did anything (R179). -/
theorem beginStep_busy {d : SlotId} {s : State} (hk : (s.slot d).kind ≠ .null) (ho : s.owner ≠ none) :
    ∃ k, beginStep d s = raise k s := by
  rw [beginStep_registered hk]
  rcases takeBus_cases d s with ⟨h, -⟩ | ⟨-, h⟩ | ⟨_, -, -, h⟩
  · exact absurd h ho
  · exact ⟨_, h⟩
  · exact ⟨_, h⟩

theorem State.releaseBus_follows (d : SlotId) (s : State) : Follows s (s.releaseBus d) := by
  rw [State.releaseBus_eq]
  exact (State.pinWrite_follows _ _ s).trans .setRegs

/-- The bracket's end on the slot that holds the bus frees it, and changes no other register (R184). -/
theorem State.releaseBus_sameRegs {d : SlotId} {s : State} (ho : s.owner = some d) :
    SameRegs (s.releaseBus d) { s with owner := none } := by
  rw [State.releaseBus_eq]; constructor <;> simp [ho]

theorem execBegin_outcome (d : SlotId) (s : State) : CommandOutcome s (.beginTxn d) (execBegin d s) := by
  unfold execBegin
  by_cases hk : (s.slot d).kind = .null
  · rw [beginStep_null hk]
    exact reportAndComplete_outcome _ _ _
  · by_cases ho : s.owner = none
    · obtain ⟨t, ht, hf, hr⟩ := beginStep_takes hk ho
      rw [ht]
      exact .completes (.beginTxn hk ho) hf hr
    · obtain ⟨k, h⟩ := beginStep_busy hk ho
      rw [h]
      exact .faults k

theorem execEnd_outcome (d : SlotId) (s : State) : CommandOutcome s (.endTxn d) (execEnd d s) := by
  unfold execEnd
  by_cases hk : (s.slot d).kind = .null
  · rw [endStep_null hk]
    exact reportAndComplete_outcome _ _ _
  · rw [endStep_registered hk]
    by_cases ho : s.owner = some d
    · exact .completes (.endTxn ho) (s.releaseBus_follows d) (State.releaseBus_sameRegs ho)
    · refine .quiet (s.releaseBus_follows d) ?_
      rw [State.releaseBus_eq]; constructor <;> simp [ho]

/-! ### The parts of a frame -/

/-- What a part of a frame does between its bracket (R199, R200): it changes no register besides STATUS, and may stop at
an unwritten byte. -/
inductive FramePart (s : State) : Result → Prop
  | goesOn {t : State} (ht : Follows s t) (hr : SameRegs t s) : FramePart s (.next t)
  | unwritten {u : State} (hu : Follows s u) : FramePart s (raise .unwrittenDbuf u)

theorem FramePart.after {s t : State} {r : Result} (ht : Follows s t) (hr : SameRegs t s) (h : FramePart t r) :
    FramePart s r := by
  cases h with
  | goesOn hu hq => exact .goesOn (ht.trans hu) (hq.trans hr)
  | unwritten hu => exact .unwritten (ht.trans hu)

/-- The parts of a frame follow each other. -/
theorem FramePart.seq {s : State} {r : Result} {f : State → Result} (h : FramePart s r)
    (hf : ∀ t, SameRegs t s → FramePart t (f t)) : FramePart s (andThen r f) := by
  cases h with
  | goesOn ht hr => exact .after ht hr (hf _ hr)
  | unwritten hu => exact .unwritten hu

/-- A byte may be sent on slot `d`: it is NULL or holds the bus (R174, R177). -/
def MaySend (d : SlotId) (s : State) : Prop := (s.slot d).kind = .null ∨ s.owner = some d

theorem MaySend.congr {d : SlotId} {s t : State} (h : MaySend d s) (hr : SameRegs t s) : MaySend d t := by
  unfold MaySend
  rw [hr.slot, hr.owner]
  exact h

theorem writeByte_part {d : SlotId} {s : State} (b : Byte) (h : MaySend d s) : FramePart s (writeByte d b s) := by
  unfold writeByte
  by_cases hk : (s.slot d).kind = .null
  · rw [writeStep_null _ _ hk]
    exact .goesOn (s.report_follows .uninit) (s.report_sameRegs .uninit)
  · rw [writeStep_registered _ _ hk, if_pos (h.resolve_left hk)]
    exact .goesOn (engine_follows _ _ _ _ _) (engine_sameRegs _ _ _ _ _)

theorem sendCommand_part {d : SlotId} {s : State} (cp : Bool) (cmd : Byte) (h : MaySend d s) :
    FramePart s (sendCommand d cp cmd s) := by
  cases cp with
  | false => exact .goesOn (.refl s) (.refl s)
  | true =>
    have hr := s.modeSelect_sameRegs d s.params.dcCommand
    exact .after (s.modeSelect_follows d _) hr (writeByte_part cmd (h.congr hr))

/-- By induction on the bytes still to send (R200). -/
theorem sendBytes_part {d : SlotId} (n : Nat) :
    ∀ (a : Nat) (s : State), MaySend d s → FramePart s (sendBytes d a n s) := by
  induction n with
  | zero => exact fun _ s _ => .goesOn (.refl s) (.refl s)
  | succ n ih =>
    intro a s h
    cases hb : s.memRead a with
    | none => simp only [sendBytes, hb]; exact .unwritten (.refl s)
    | some b => simp only [sendBytes, hb]; exact (writeByte_part b h).seq fun t hr => ih _ t (h.congr hr)

theorem sendData_part {d : SlotId} {s : State} (len addr : BitVec 16) (h : MaySend d s) :
    FramePart s (sendData d len addr s) := by
  unfold sendData
  split
  · exact .goesOn (.refl s) (.refl s)
  · have hr := s.modeSelect_sameRegs d s.dcData
    exact .after (s.modeSelect_follows d _) hr (sendBytes_part _ _ _ (h.congr hr))

/-- The command byte and the data bytes of a frame. -/
theorem frameBody_part {d : SlotId} {s : State} (cp : Bool) (cmd : Byte) (len addr : BitVec 16) (h : MaySend d s) :
    FramePart s (andThen (sendCommand d cp cmd s) (sendData d len addr)) :=
  (sendCommand_part cp cmd h).seq fun _ hr => sendData_part len addr (h.congr hr)

/-- A frame on a NULL slot reports and changes no register besides STATUS (R205). -/
theorem sendFrame_null {d : SlotId} {s : State} (cp : Bool) (cmd : Byte) (len addr : BitVec 16)
    (hk : (s.slot d).kind = .null) : FramePart s (sendFrame d cp cmd len addr s) := by
  unfold sendFrame
  rw [beginStep_null hk, andThen_next]
  have hbody : FramePart s (andThen (sendCommand d cp cmd s.nullReport) (sendData d len addr)) :=
    .after (s.report_follows .uninit) (s.report_sameRegs .uninit) (frameBody_part cp cmd len addr (.inl hk))
  refine hbody.seq fun t hr => ?_
  rw [endStep_null (by rw [hr.slot, hk])]
  exact .goesOn ((t.report_follows .uninit).trans (State.modeSelect_follows d _ _))
    ((State.modeSelect_sameRegs d _ _).trans (t.report_sameRegs .uninit))

theorem FramePart.completes {s : State} {r : Result} {i : Instr} (h : FramePart s r) :
    CommandOutcome s i (andThen r complete) := by
  cases h with
  | goesOn ht hr => exact .quiet ht hr
  | unwritten hu => exact .unwritten hu

/-- A frame that took the free bus, as `t` has it, and sent its bytes releases the bus (R200, R202). -/
theorem FramePart.releases {d : SlotId} {s t : State} {r : Result} {i : Instr} (hk : (s.slot d).kind ≠ .null)
    (ho : s.owner = none) (ht : Follows s t) (hr : SameRegs t { s with owner := some d }) (h : FramePart t r) :
    CommandOutcome s i
      (andThen (andThen r fun u => andThen (endStep d u) fun u => .next (u.modeSelect d u.dcData)) complete) := by
  cases h with
  | unwritten hu => exact .unwritten (ht.trans hu)
  | @goesOn u hu hq =>
    have hs := hq.trans hr
    have hslot : u.slot d = s.slot d := hs.slot d
    have hfree := State.releaseBus_sameRegs (s := u) hs.owner
    rw [andThen_next, endStep_registered (by rwa [hslot])]
    exact .quiet (((ht.trans hu).trans (u.releaseBus_follows d)).trans (State.modeSelect_follows d _ _))
      ((State.modeSelect_sameRegs d _ _).trans (hfree.trans ⟨hs.cstate, hs.result, ho.symm, hs.bus, hs.slots⟩))

theorem execWriteCmdData_outcome (d : SlotId) (cp : Bool) (cmd : Byte) (len addr : BitVec 16) (s : State) :
    CommandOutcome s (.writeCmdData d cp cmd len addr) (execWriteCmdData d cp cmd len addr s) := by
  unfold execWriteCmdData
  split
  · exact reportAndComplete_outcome _ _ _
  by_cases hk : (s.slot d).kind = .null
  · exact (sendFrame_null cp cmd len addr hk).completes
  · unfold sendFrame
    by_cases ho : s.owner = none
    · obtain ⟨t, ht, hf, hr⟩ := beginStep_takes hk ho
      rw [ht, andThen_next]
      exact (frameBody_part cp cmd len addr (.inr hr.owner)).releases hk ho hf hr
    · obtain ⟨k, h⟩ := beginStep_busy hk ho
      rw [h]
      exact .faults k

/-- Every command has one of the outcomes, with its own effect on the registers. -/
theorem exec_outcome (i : Instr) (s : State) : CommandOutcome s i (exec i s) := by
  cases i with
  | setup clk sdo sdi hw iface => exact execSetup_outcome clk sdo sdi hw iface s
  | register d cpol cpha order cs rate => exact execRegister_outcome d cpol cpha order cs rate s
  | unregister d => exact execUnregister_outcome d s
  | setDc d dc => exact execSetDc_outcome d dc s
  | beginTxn d => exact execBegin_outcome d s
  | endTxn d => exact execEnd_outcome d s
  | transfer d value nbits => exact execTransfer_outcome d value nbits s
  | write d value nbits => exact execWrite_outcome d value nbits s
  | transfer8 d byte => exact execTransfer8_outcome d byte s
  | isReady d => exact execIsReady_outcome d s
  | writeCmdData d cp cmd len addr => exact execWriteCmdData_outcome d cp cmd len addr s

/-- A command that completes has an effect on the registers, and follows its start but for `pc` (R21). -/
theorem exec_next {i : Instr} {s t : State} (h : exec i s = .next t) :
    ∃ u v, t = u.advance ∧ Follows s u ∧ Effect s i v ∧ SameRegs t v := by
  have ho := exec_outcome i s
  generalize exec i s = r at h ho
  cases ho with
  | completes he hu hv =>
    injection h with h
    subst h
    exact ⟨_, _, rfl, hu, he, hv.cstate, hv.result, hv.owner, hv.bus, hv.slots⟩
  | faults k => exact absurd h (raise_ne_next _ _ _)
  | unwritten hu => exact absurd h (raise_ne_next _ _ _)

/-- A command that faults did nothing before, or faults on an unwritten byte (R236). -/
theorem exec_fault {i : Instr} {s : State} {f : Fault} (h : exec i s = .fault f) :
    (∃ k, f = Fault.of k { s with fault := some k }) ∨
      ∃ u, Follows s u ∧ f = Fault.of .unwrittenDbuf { u with fault := some .unwrittenDbuf } := by
  have ho := exec_outcome i s
  generalize exec i s = r at h ho
  cases ho with
  | completes he hu hv => cases h
  | faults k => exact .inl ⟨k, raise_eq_fault.mp h⟩
  | unwritten hu => exact .inr ⟨_, hu, raise_eq_fault.mp h⟩

/-- Settles O42, from the outcomes of a command. -/
theorem commandsCompleteOrFaultCleanly : Obligations.CommandsCompleteOrFaultCleanly := by
  unfold Obligations.CommandsCompleteOrFaultCleanly
  intro s i
  constructor
  · intro t h
    obtain ⟨u, -, rfl, hu, -, -⟩ := exec_next h
    exact ⟨congrArg (· + 1) hu.pc, hu.fault⟩
  · intro f h
    rcases exec_fault h with ⟨k, rfl⟩ | ⟨u, hu, rfl⟩
    · simp
    · simp [hu.pc]

/-! ### What commands leave alone -/

/-- Settles O45: RESULT is no part of any other effect. -/
theorem onlyReturningCommandsWriteResult : Obligations.OnlyReturningCommandsWriteResult := by
  unfold Obligations.OnlyReturningCommandsWriteResult
  intro s t i h htr ht8 hir
  obtain ⟨-, v, -, -, he, hv⟩ := exec_next h
  rw [hv.result]
  cases he with
  | result hi v =>
    cases i with
    | transfer d v n => exact absurd rfl (htr d v n)
    | transfer8 d b => exact absurd rfl (ht8 d b)
    | isReady d => exact absurd rfl (hir d)
    | _ => cases hi
  | _ => rfl

/-- Settles O47: the effect that writes the descriptor asks for UNCONFIGURED. -/
theorem descriptorIsWrittenOnce : Obligations.DescriptorIsWrittenOnce := by
  unfold Obligations.DescriptorIsWrittenOnce
  intro s t i h hc
  obtain ⟨-, v, -, -, he, hv⟩ := exec_next h
  rw [hv.bus]
  cases he with
  | setup hun => exact absurd hun hc
  | _ => rfl

/-- A slot written with its own DC leaves the DC of every slot. -/
theorem State.setSlot_dc {d : SlotId} {c : Slot} {s : State} (h : c.dc = (s.slot d).dc) (m : SlotId) :
    ((s.setSlot d c).slot m).dc = (s.slot m).dc := by
  rw [State.setSlot_slot]
  split
  · subst d; exact h
  · rfl

/-- Settles O48: REGISTER and UNREGISTER write a slot with the DC it had. -/
theorem onlySetDcBindsModeSelect : Obligations.OnlySetDcBindsModeSelect := by
  unfold Obligations.OnlySetDcBindsModeSelect
  intro s t i h hdc m
  obtain ⟨-, v, -, -, he, hv⟩ := exec_next h
  rw [hv.slot]
  cases he with
  | setDc => exact absurd rfl (hdc _ _)
  | register => exact State.setSlot_dc (by rfl) m
  | unregister => exact State.setSlot_dc (by rfl) m
  | _ => rfl

/-- Settles O49, from the events a command records and their reports. -/
theorem commandsAppendAndReport : Obligations.CommandsAppendAndReport := by
  unfold Obligations.CommandsAppendAndReport
  intro s t i h
  obtain ⟨u, -, rfl, hu, -, -⟩ := exec_next h
  obtain ⟨es, hr, hs⟩ := hu.log
  have hle := s.status.stickyLe_after es
  rw [← hs] at hle
  exact ⟨es, hr.trace, (congrArg Status.lastErr hs).trans (s.status.lastErr_after es), hle.fatal, hle.reg, hle.uninit,
    hle.illegal⟩

/-! ### A step -/

/-- The registers besides STATUS after a step: as they were, reset, or changed by the command it served (R15,
R260). -/
theorem step_regs {s t : State} (h : step s = .next t) :
    SameRegs t s ∨ ((∃ rest, s.env.actions = .reset :: rest) ∧ SameRegs t State.reset) ∨
      ∃ w rest i u v, s.env.actions = .command w :: rest ∧ decode w = .ok i ∧ SameRegs u s ∧ Effect u i v ∧
        SameRegs t v := by
  obtain ⟨-, ⟨-, rfl⟩ | ⟨a, rest, ha, ⟨w, i, rfl, hd, he⟩ | ⟨w, e, -, -, rfl⟩ | ⟨r, -, rfl⟩ | ⟨r, m, -, rfl⟩ |
    ⟨x, b, -, rfl⟩ | ⟨rfl, rfl⟩⟩⟩ := step_cases h
  · exact .inl (.refl _)
  · obtain ⟨-, v, -, -, he, hv⟩ := exec_next he
    exact .inr (.inr ⟨w, rest, i, (s.taken rest).startCommand, v, ha, hd, ⟨rfl, rfl, rfl, rfl, rfl⟩, he, hv⟩)
  · exact .inl ⟨rfl, rfl, rfl, rfl, rfl⟩
  · exact .inl ⟨rfl, rfl, rfl, rfl, rfl⟩
  · exact .inl (by constructor <;> simp [State.taken])
  · exact .inl ⟨rfl, rfl, rfl, rfl, rfl⟩
  · exact .inr (.inl ⟨⟨rest, ha⟩, ⟨rfl, rfl, rfl, rfl, rfl⟩⟩)

/-- CSTATE is changed by SETUP only (R23). -/
theorem Effect.cstate {s v : State} {i : Instr} (h : Effect s i v) :
    v.cstate = s.cstate ∨ ∃ clk sdo sdi hw iface, i = .setup clk sdo sdi hw iface := by
  cases h with
  | setupFails => exact .inr ⟨_, _, _, _, _, rfl⟩
  | setup => exact .inr ⟨_, _, _, _, _, rfl⟩
  | _ => exact .inl rfl

/-- Settles O43, from the three ways a step treats the registers. -/
theorem onlySetupOrResetChangesCstate : Obligations.OnlySetupOrResetChangesCstate := by
  unfold Obligations.OnlySetupOrResetChangesCstate
  intro s t h hne
  rcases step_regs h with hr | ⟨hreset, -⟩ | ⟨w, rest, i, u, v, ha, hd, hu, he, hv⟩
  · exact absurd hr.cstate hne
  · exact .inl hreset
  · rcases he.cstate with hc | ⟨clk, sdo, sdi, hw, iface, rfl⟩
    · exact absurd (hv.cstate.trans (hc.trans hu.cstate)) hne
    · exact .inr ⟨w, rest, clk, sdo, sdi, hw, iface, ha, hd⟩

/-! ### The trace and the pin records -/

theorem TraceInv.of_records {s t : State} {es : List Event} (h : TraceInv s) (hr : Records s t es) : TraceInv t :=
  ⟨fun q => by rw [hr.level, h.level, hr.trace, levelAfter_append],
    fun q => by rw [hr.direction, h.direction, hr.trace, dirAfter_append]⟩

theorem TraceInv.of_follows {s t : State} (h : TraceInv s) (hf : Follows s t) : TraceInv t := by
  obtain ⟨es, hr, -⟩ := hf.log
  exact h.of_records hr

theorem traceInv_reset : TraceInv State.reset := ⟨fun _ => rfl, fun _ => rfl⟩

/-- The invariant looks at the trace, the levels and the directions only. -/
theorem TraceInv.congr {s t : State} (h : TraceInv s) (ht : t.trace = s.trace) (hl : t.lvl = s.lvl)
    (hd : t.dir = s.dir) : TraceInv t := h.of_records (.refl ht hl hd)

/-- Settles O57: whatever a step serves, it records events or leaves the records, or it resets them. -/
theorem stepKeepsRecordsOfTheTrace : Obligations.StepKeepsRecordsOfTheTrace := by
  unfold Obligations.StepKeepsRecordsOfTheTrace
  intro s t hs h
  obtain ⟨-, ⟨-, rfl⟩ | ⟨a, rest, -, ⟨w, i, -, -, he⟩ | ⟨w, e, -, -, rfl⟩ | ⟨r, -, rfl⟩ | ⟨r, m, -, rfl⟩ |
    ⟨x, b, -, rfl⟩ | ⟨-, rfl⟩⟩⟩ := step_cases h
  · exact hs
  · obtain ⟨u, -, rfl, hu, -, -⟩ := exec_next he
    have hstart : TraceInv (s.taken rest).startCommand := hs.congr rfl rfl rfl
    exact (hstart.of_follows hu).congr rfl rfl rfl
  · have hstart : TraceInv (s.taken rest).startCommand := hs.congr rfl rfl rfl
    exact (hstart.of_follows (State.report_follows _ _)).congr rfl rfl rfl
  · exact hs.congr rfl rfl rfl
  · exact hs.congr (by simp [State.taken]) (by simp [State.taken]) (by simp [State.taken])
  · exact hs.congr rfl rfl rfl
  · exact traceInv_reset.congr rfl rfl rfl

/-! ### Invariants of the registers -/

theorem ifMatches_wf {w m k : Command} {x : Except Illegal Instr} {i : Instr} (h : ifMatches w m k x = .ok i)
    (hx : x = .ok i → i.wf = true) : i.wf = true := by
  unfold ifMatches at h
  split at h
  · exact hx h
  · cases h

theorem ifLegal_wf {e : Illegal} {j i : Instr} (h : ifLegal e j = .ok i) : i.wf = true := by
  unfold ifLegal at h
  split at h
  · rename_i hj; cases h; exact hj
  · cases h

/-- An accepted word decodes to a well-formed command (R89). -/
theorem decode_wf {w : Command} {i : Instr} (h : decode w = .ok i) : i.wf = true := by
  unfold decode at h
  split at h
  case h_2 | h_7 | h_8 => exact ifMatches_wf h ifLegal_wf
  case h_12 => cases h
  all_goals exact ifMatches_wf h fun hx => by cases hx; rfl

/-- A property of the registers besides STATUS that reset meets and every effect of a well-formed command keeps is kept
by every step. -/
theorem step_keeps {P : State → Prop} (hcongr : ∀ {s t}, SameRegs t s → P s → P t) (hreset : P State.reset)
    (heffect : ∀ {s v i}, i.wf = true → Effect s i v → P s → P v) {s t : State} (hs : P s) (h : step s = .next t) :
    P t := by
  rcases step_regs h with hr | ⟨-, hr⟩ | ⟨w, rest, i, u, v, -, hd, hu, he, hv⟩
  · exact hcongr hr hs
  · exact hcongr hr hreset
  · exact hcongr hv (heffect (decode_wf hd) he (hcongr hu hs))

@[simp] theorem State.reset_bus : State.reset.bus = Bus.reset := rfl

@[simp] theorem State.reset_slot (m : SlotId) : State.reset.slot m = Slot.reset := State.reset.applyReset_slot m

/-! ### The delegates (R37) -/

theorem DelegateInv.congr {s t : State} (hr : SameRegs t s) (h : DelegateInv s) : DelegateInv t := by
  obtain ⟨hb, hh, ho, hc⟩ := h
  constructor <;> simpa only [hr.slot, hr.cstate, hr.owner]

theorem delegateInv_reset : DelegateInv State.reset := by
  constructor
  case owner => exact nofun
  all_goals simp [Slot.reset]

/-- Before a SETUP that succeeds no slot is registered. -/
theorem DelegateInv.null {s : State} (h : DelegateInv s) (hc : s.cstate = .unconfigured) (d : SlotId) :
    (s.slot d).kind = .null := by
  cases hk : (s.slot d).kind with
  | null => rfl
  | bitbang => have := h.bitbang d hk; simp [hc] at this
  | hw => have := h.hw d hk; simp [hc] at this

/-- SETUP may change the controller state: no slot is registered, so there is no owner and nothing to fit the bus. -/
theorem DelegateInv.of_null {s t : State} (h : DelegateInv s) (hc : s.cstate = .unconfigured)
    (hsl : t.slots = s.slots) (ho : t.owner = s.owner) : DelegateInv t := by
  have hnull (d : SlotId) : (t.slot d).kind = .null := by simp only [State.slot, hsl]; exact h.null hc d
  exact ⟨fun d hd => by simp [hnull] at hd, fun d hd => by simp [hnull] at hd,
    fun d hd => absurd (h.null hc d) (h.owner d (ho ▸ hd)), fun d _ _ hd => absurd (hnull d) hd⟩

/-- Writing a slot keeps the invariant when the new slot fits the bus, the owner and the other chip-selects. -/
theorem DelegateInv.setSlot {s : State} {d : SlotId} {c : Slot} (h : DelegateInv s)
    (hb : c.kind = .bitbang → s.cstate = .readySw) (hh : c.kind = .hw → s.cstate = .readyHw)
    (ho : s.owner = some d → c.kind ≠ .null)
    (hc : c.kind ≠ .null → ∀ m, m ≠ d → (s.slot m).kind ≠ .null → apart c.cs (s.slot m).cs) :
    DelegateInv (s.setSlot d c) := by
  constructor <;> simp only [State.setSlot_slot, State.setSlot_cstate, State.setSlot_owner]
  case bitbang => intro m; split; exacts [hb, h.bitbang m]
  case hw => intro m; split; exacts [hh, h.hw m]
  case owner =>
    intro m hm
    split
    · subst m; exact ho hm
    · exact h.owner m hm
  case cs =>
    intro m e hne hm he heq
    by_cases hdm : d = m
    · have hde : ¬ d = e := hdm ▸ hne
      simp only [if_pos hdm, if_neg hde] at hm he heq ⊢
      exact hc hm e (Ne.symm hde) he heq
    · by_cases hde : d = e
      · simp only [if_neg hdm, if_pos hde] at hm he heq ⊢
        exact heq.trans (hc he m (Ne.symm hdm) hm heq.symm)
      · simp only [if_neg hdm, if_neg hde] at hm he heq ⊢
        exact h.cs m e hne hm he heq

/-- The delegate a bus produces (R116). -/
theorem CState.delegate_eq_some {c : CState} {k : Kind} (h : c.delegate = some k) :
    (k = .bitbang ∧ c = .readySw) ∨ (k = .hw ∧ c = .readyHw) := by
  cases c <;> simp_all [CState.delegate]

theorem CState.delegate_ne_null {c : CState} {k : Kind} (h : c.delegate = some k) : k ≠ .null := by
  rcases CState.delegate_eq_some h with ⟨rfl, -⟩ | ⟨rfl, -⟩ <;> decide

/-- Every effect keeps R37. -/
theorem Effect.keeps_delegateInv {s v : State} {i : Instr} (he : Effect s i v) (h : DelegateInv s) : DelegateInv v := by
  cases he with
  | none => exact h
  | setupFails hc => exact h.of_null hc rfl rfl
  | setup hc => exact h.of_null hc rfl rfl
  | register hk hnull hcs =>
    obtain ⟨-, -, -, hcs⟩ := hcs
    rcases CState.delegate_eq_some hk with ⟨rfl, hc⟩ | ⟨rfl, hc⟩
    · exact h.setSlot (fun _ => hc) nofun (fun ho => absurd hnull (h.owner _ ho)) fun _ m _ => hcs m
    · exact h.setSlot nofun (fun _ => hc) (fun ho => absurd hnull (h.owner _ ho)) fun _ m _ => hcs m
  | unregister _ ho => exact h.setSlot nofun nofun (absurd · ho) (absurd rfl)
  | @setDc d =>
    exact h.setSlot (h.bitbang d) (h.hw d) (h.owner d) fun hk m hne hm => h.cs d m (Ne.symm hne) hk hm
  | beginTxn hk => exact ⟨h.bitbang, h.hw, fun m hm => Option.some.inj hm ▸ hk, h.cs⟩
  | endTxn => exact ⟨h.bitbang, h.hw, nofun, h.cs⟩
  | result => exact ⟨h.bitbang, h.hw, h.owner, h.cs⟩

/-- Settles O52: reset and every effect of a command meet R37. -/
theorem stepKeepsDelegateInvariants : Obligations.StepKeepsDelegateInvariants := by
  unfold Obligations.StepKeepsDelegateInvariants
  intro s t
  exact step_keeps .congr delegateInv_reset fun _ => Effect.keeps_delegateInv

/-! ### The slots (R34, R36) -/

theorem SlotInv.congr {s t : State} (hr : SameRegs t s) (h : SlotInv s) : SlotInv t := by
  obtain ⟨h1, h2⟩ := h
  constructor <;> simpa only [hr.slot]

theorem slotInv_reset : SlotInv State.reset := by
  constructor <;> simp [Slot.reset]

/-- Writing a slot whose RATE and configuration fit its kind. -/
theorem SlotInv.setSlot {s : State} {d : SlotId} {c : Slot} (h : SlotInv s) (hr : c.rate = 0#32 ↔ c.kind = .null)
    (hi : c.kind = .null → c = { Slot.reset with dc := c.dc }) : SlotInv (s.setSlot d c) := by
  constructor <;> intro m <;> rw [State.setSlot_slot] <;> split
  exacts [hr, h.rate m, hi, h.idle m]

/-- Every effect of a well-formed command keeps the slots; REGISTER's RATE is not 0 (R89). -/
theorem Effect.keeps_slotInv {s v : State} {i : Instr} (hwf : i.wf = true) (he : Effect s i v) (h : SlotInv s) :
    SlotInv v := by
  cases he with
  | register hk =>
    have hnn := CState.delegate_ne_null hk
    exact h.setSlot (iff_of_false (of_decide_eq_true hwf) hnn) (absurd · hnn)
  | unregister => exact h.setSlot (iff_of_true rfl rfl) fun _ => rfl
  | @setDc d =>
    refine h.setSlot (h.rate d) fun hk => ?_
    rw [h.idle d hk]
  | _ => exact ⟨h.rate, h.idle⟩

/-- Settles O53: reset and every effect of a well-formed command meet R34 and R36. -/
theorem stepKeepsSlotConfiguration : Obligations.StepKeepsSlotConfiguration := by
  unfold Obligations.StepKeepsSlotConfiguration
  intro s t
  exact step_keeps .congr slotInv_reset Effect.keeps_slotInv

/-! ### The descriptor (R29, R112) -/

theorem BusInv.congr {s t : State} (hr : SameRegs t s) (h : BusInv s) : BusInv t := by
  obtain ⟨h1, h2, h3⟩ := h
  constructor <;> simpa only [hr.cstate, hr.bus]

theorem busInv_reset : BusInv State.reset := ⟨fun _ => rfl, nofun, nofun⟩

/-- Every effect keeps the descriptor in line with CSTATE. -/
theorem Effect.keeps_busInv {s v : State} {i : Instr} (he : Effect s i v) (h : BusInv s) : BusInv v := by
  cases he with
  | setupFails hc => exact ⟨fun _ => h.unset (.inl hc), nofun, nofun⟩
  | @setup clk sdo sdi hw iface _ hclk =>
    cases hw with
    | true => exact ⟨fun hc => (by simp at hc), nofun, fun _ => ⟨hclk, rfl⟩⟩
    | false => exact ⟨fun hc => (by simp at hc), fun _ => ⟨hclk, rfl⟩, nofun⟩
  | _ => exact ⟨h.unset, h.sw, h.hw⟩

/-- Settles O54: reset and every effect of a command meet R29 and R112. -/
theorem stepKeepsDescriptor : Obligations.StepKeepsDescriptor := by
  unfold Obligations.StepKeepsDescriptor
  intro s t
  exact step_keeps .congr busInv_reset fun _ => Effect.keeps_busInv

/-! ### Reset -/

/-- The pins of reset's descriptor and slots are all the no-op pin. -/
theorem pinRoles_reset : PinRoles State.reset := by
  constructor <;> simp [apart, Slot.reset, Bus.reset]

/-- Settles O51: the invariants of the registers, and records that hold nothing. -/
theorem resetMeetsEveryInvariant : Obligations.ResetMeetsEveryInvariant := by
  unfold Obligations.ResetMeetsEveryInvariant
  refine ⟨delegateInv_reset, slotInv_reset, busInv_reset, pinRoles_reset, ?_, ?_, traceInv_reset,
    ⟨Memory.wf_reset, Cells.wf_nil _, Cells.wf_nil _⟩⟩
  · intro d hk
    simp [Slot.reset] at hk
  · intro d hdc
    simp [Slot.reset] at hdc

/-- Settles O12, by `step_faulted`. -/
theorem faultedMachineRunsNoCommand : Obligations.FaultedMachineRunsNoCommand := by
  unfold Obligations.FaultedMachineRunsNoCommand
  exact fun _ _ hf => step_faulted hf

/-! ### Registers as the host reads them -/

/-- A field read at its place. -/
theorem regField_extract {n lo : Nat} (v : BitVec n) (h : lo + n ≤ 32) : (regField lo v).extractLsb' lo n = v := by
  apply BitVec.eq_of_getLsbD_eq
  intro i hi
  have h1 : lo + i < 32 := by omega
  simp only [BitVec.getLsbD_extractLsb', regField_getLsbD]
  simp [hi, h1]

/-- A field read where it is not. -/
theorem regField_extract_apart {n lo at' k : Nat} (v : BitVec n) (h : at' + k ≤ lo ∨ lo + n ≤ at') :
    (regField lo v).extractLsb' at' k = 0#k := by
  apply BitVec.eq_of_getLsbD_eq
  intro i hi
  simp only [BitVec.getLsbD_extractLsb', regField_getLsbD, BitVec.getLsbD_zero]
  rcases h with h | h
  · have h1 : ¬ lo ≤ at' + i := by omega
    simp [h1]
  · rw [v.getLsbD_of_ge (at' + i - lo) (by omega)]
    simp

/-- The slot bank of the register map (R22). -/
theorem State.regWord_bank {s : State} {r : BitVec 8} (h : 0x10 ≤ r.toNat ∧ r.toNat ≤ 0x2F) :
    s.regWord r = if r.toNat % 2 = 0 then s.slotCfgWord (slotOfReg r) else (s.slot (slotOfReg r)).rate := by
  unfold State.regWord
  split
  case h_7 => rw [if_pos h]
  all_goals omega

/-- A register number outside the map reads 0 (R22). -/
theorem State.regWord_reserved {s : State} {r : BitVec 8} (h6 : 0x06 ≤ r.toNat)
    (h : ¬ (0x10 ≤ r.toNat ∧ r.toNat ≤ 0x2F)) : s.regWord r = 0#32 := by
  unfold State.regWord
  split
  case h_7 => rw [if_neg h]
  all_goals omega

/-- Settles O16: the reserved numbers lie outside the map. -/
theorem reservedRegistersReadZero : Obligations.ReservedRegistersReadZero := by
  unfold Obligations.ReservedRegistersReadZero
  intro s r h
  exact State.regWord_reserved (by omega) (by omega)

/-- SLOTn_CFG is at 0x10 + 2n, and SLOTn_RATE one further (R22). -/
theorem State.regWord_slotCfg (s : State) (d : SlotId) :
    s.regWord (BitVec.ofNat 8 (0x10 + 2 * d.val)) = s.slotCfgWord d := by
  have hd : (BitVec.ofNat 8 (0x10 + 2 * d.val)).toNat = 0x10 + 2 * d.val := by simp; omega
  have hs : slotOfReg (BitVec.ofNat 8 (0x10 + 2 * d.val)) = d := by decide +revert
  rw [State.regWord_bank (by omega), if_pos (by omega), hs]

theorem State.regWord_slotRate (s : State) (d : SlotId) :
    s.regWord (BitVec.ofNat 8 (0x11 + 2 * d.val)) = (s.slot d).rate := by
  have hd : (BitVec.ofNat 8 (0x11 + 2 * d.val)).toNat = 0x11 + 2 * d.val := by simp; omega
  have hs : slotOfReg (BitVec.ofNat 8 (0x11 + 2 * d.val)) = d := by decide +revert
  rw [State.regWord_bank (by omega), if_neg (by omega), hs]

/-- The bits of SLOTn_CFG (R34). -/
theorem State.slotCfgWord_bits (s : State) (d : SlotId) :
    (s.slotCfgWord d).getLsbD 2 = (s.slot d).cpol ∧ (s.slotCfgWord d).getLsbD 3 = phaseBit (s.slot d).cpha ∧
      (s.slotCfgWord d).getLsbD 4 = orderBit (s.slot d).order ∧ (s.slotCfgWord d).getLsbD 5 = s.inTxn d := by
  simp only [State.slotCfgWord, BitVec.getLsbD_or, regField_getLsbD, regBit_getLsbD]
  simp

/-- The fields of SLOTn_CFG, and the bits between them (R34). -/
theorem State.slotCfgWord_fields (s : State) (d : SlotId) :
    (s.slotCfgWord d).extractLsb' 0 2 = (s.slot d).kind.bits ∧ (s.slotCfgWord d).extractLsb' 6 2 = 0#2 ∧
      (s.slotCfgWord d).extractLsb' 8 8 = (s.slot d).cs ∧ (s.slotCfgWord d).extractLsb' 16 8 = (s.slot d).dc ∧
      (s.slotCfgWord d).extractLsb' 24 8 = 0#8 := by
  simp [State.slotCfgWord, BitVec.extractLsb'_or, regField_extract, regField_extract_apart, regBit]

theorem phaseBit_eq (c : ClockPhase) : phaseBit c = decide (c = .trailing) := by cases c <;> rfl

theorem orderBit_eq (o : BitOrder) : orderBit o = decide (o = .lsbFirst) := by cases o <;> rfl

/-- Settles O15: each bit and field of the word, at its place. -/
theorem slotRegistersHoldTheirSlot : Obligations.SlotRegistersHoldTheirSlot := by
  unfold Obligations.SlotRegistersHoldTheirSlot
  intro s d
  rw [State.regWord_slotCfg, State.regWord_slotRate]
  obtain ⟨hcpol, hcpha, horder, htxn⟩ := s.slotCfgWord_bits d
  obtain ⟨hkind, hgap, hcs, hdc, htop⟩ := s.slotCfgWord_fields d
  refine ⟨⟨hkind.trans ?_, hcpol, hcpha.trans (phaseBit_eq _), horder.trans (orderBit_eq _), htxn, hgap, hcs, hdc, htop⟩,
    rfl⟩
  cases (s.slot d).kind <;> rfl

/-- CSTATE's numbers, as STATE reads (R23). -/
theorem State.stateWord_eq (s : State) :
    s.stateWord = (match s.cstate with
      | .unconfigured => 0#32 | .readySw => 1#32 | .readyHw => 2#32 | .failed => 3#32) := by
  unfold State.stateWord
  cases s.cstate <;> rfl

/-- The error codes' numbers (R230). -/
theorem codeOfErr_eq (c : Option ErrCode) :
    codeOfErr c = (match c with
      | none => 0#4 | some .setupNoClk => 1#4 | some .setupHwAlloc => 2#4 | some .regDuplicate => 3#4
      | some .unregUnknown => 4#4 | some .uninit => 5#4 | some .notReady => 6#4 | some .illegal => 7#4
      | some .range => 8#4) := by
  cases c with
  | none => rfl
  | some c => cases c <;> rfl

/-- The fields of STATUS (R24). -/
theorem Status.word_fields (t : Status) :
    t.word.extractLsb' 0 4 = codeOfErr t.lastErr ∧ t.word.extractLsb' 8 24 = 0#24 := by
  simp [Status.word, BitVec.extractLsb'_or, regField_extract, regField_extract_apart, regBit]

/-- The sticky bits of STATUS (R24). -/
theorem Status.word_bits (t : Status) :
    t.word.getLsbD 4 = t.sFatal ∧ t.word.getLsbD 5 = t.sReg ∧ t.word.getLsbD 6 = t.sUninit ∧
      t.word.getLsbD 7 = t.sIllegal := by
  simp only [Status.word, BitVec.getLsbD_or, regField_getLsbD, regBit_getLsbD]
  simp

/-- OWNER with OWNER_VALID in bit 4 above the slot's number (R26). -/
theorem State.ownerWord_some {s : State} {d : SlotId} (h : s.owner = some d) :
    s.ownerWord = BitVec.ofNat 32 (16 + d.val) := by
  have hword : ∀ e : SlotId, regField 0 (BitVec.ofNat 4 e.val) ||| regBit 4 true = BitVec.ofNat 32 (16 + e.val) := by
    decide
  simp only [State.ownerWord, h, hword d]

/-- The fields of BUSPINS (R27). -/
theorem State.busPinsWord_fields (s : State) :
    s.busPinsWord.extractLsb' 0 8 = s.bus.clk ∧ s.busPinsWord.extractLsb' 8 8 = s.bus.sdo ∧
      s.busPinsWord.extractLsb' 16 8 = s.bus.sdi ∧ s.busPinsWord.extractLsb' 25 7 = 0#7 := by
  simp [State.busPinsWord, BitVec.extractLsb'_or, regField_extract, regField_extract_apart, regBit]

theorem State.busPinsWord_hw (s : State) : s.busPinsWord.getLsbD 24 = s.bus.hw := by
  simp only [State.busPinsWord, BitVec.getLsbD_or, regField_getLsbD, regBit_getLsbD]
  simp

/-- A field at bit 0 is the value itself, zero-extended (R25, R28). -/
theorem regField_zero {n : Nat} (v : BitVec n) : regField 0 v = v.setWidth 32 := by
  simp [regField]

/-- Settles O14, register by register. -/
theorem registersHoldTheirFields : Obligations.RegistersHoldTheirFields := by
  unfold Obligations.RegistersHoldTheirFields
  intro s
  obtain ⟨herr, hstop⟩ := s.status.word_fields
  obtain ⟨hfatal, hreg, huninit, hillegal⟩ := s.status.word_bits
  obtain ⟨hclk, hsdo, hsdi, hbtop⟩ := s.busPinsWord_fields
  refine ⟨s.stateWord_eq, ⟨herr.trans (codeOfErr_eq _), hfatal, hreg, huninit, hillegal, hstop⟩, regField_zero _,
    ⟨fun ho => ?_, fun d ho => State.ownerWord_some ho⟩, ⟨hclk, hsdo, hsdi, s.busPinsWord_hw, hbtop⟩, regField_zero _⟩
  show s.ownerWord = 0#32
  simp only [State.ownerWord, ho]

/-- SLOTn_CFG at reset: CS and DC are `NONE`, every other field is 0 (R42). -/
theorem State.slotCfgWord_reset {s : State} {d : SlotId} (hs : s.slot d = Slot.reset) (ho : s.owner = none) :
    s.slotCfgWord d = 0x00FFFF00#32 := by
  have htxn : s.inTxn d = false := by simp [State.inTxn, ho]
  simp only [State.slotCfgWord, hs, htxn]
  rfl

/-- BUSPINS at reset: three pins `NONE`, HW 0 (R42). -/
theorem State.busPinsWord_reset {s : State} (h : s.bus = Bus.reset) : s.busPinsWord = 0x00FFFFFF#32 := by
  simp only [State.busPinsWord, h]
  rfl

theorem Status.word_reset : Status.reset.word = 0#32 := by decide

/-- Settles O11, from the values reset gives each field. -/
theorem resetGivesTheResetValues : Obligations.ResetGivesTheResetValues := by
  unfold Obligations.ResetGivesTheResetValues
  intro s rest hf ha
  have hslot (d : SlotId) := (s.taken rest).applyReset_slot d
  exact ⟨_, step_action hf ha, rfl, rfl, Status.word_reset, rfl, rfl, State.busPinsWord_reset rfl, rfl,
    fun d => ⟨State.slotCfgWord_reset (hslot d) rfl, congrArg Slot.rate (hslot d)⟩,
    fun _ => ⟨rfl, rfl⟩, fun _ => rfl, rfl, rfl, rfl, rfl⟩

end Sys2Proof.Machine

/-!
The family of 20_memory.md. The data buffer is the host's: no command writes it (`Follows.dbuf`). Cells in canonical
form are known by what they read (`Cells.mem_iff_read`), and every step keeps that form: each operation keeps
`CellsInv`, so each command that completes does (`Canonical`).
-/

namespace Sys2Proof.Machine

/-! ### The data buffer under commands -/

/-- Settles O46: a command that completes follows its start, and one that faults did nothing before or stops where a
frame stands. -/
theorem onlyTheHostWritesTheDataBuffer : Obligations.OnlyTheHostWritesTheDataBuffer := by
  unfold Obligations.OnlyTheHostWritesTheDataBuffer
  intro s i
  constructor
  · intro t h
    obtain ⟨u, -, rfl, hu, -, -⟩ := exec_next h
    exact hu.dbuf
  · intro f h
    rcases exec_fault h with ⟨k, rfl⟩ | ⟨u, hu, rfl⟩
    · rw [Fault.final_of]
    · rw [Fault.final_of]; exact hu.dbuf

/-! ### Canonical cells are known by their reads -/

section
variable {β : Type} {c c' : Cells β}

/-- Cells with rising keys list exactly the pairs they read. -/
theorem Cells.mem_iff_read (h : c.Pairwise (fun x y => x.1 < y.1)) (a : Nat) (v : β) :
    (a, v) ∈ c ↔ Cells.read c a = some v := by
  induction c with
  | nil => simp
  | cons x r ih =>
    obtain ⟨k, w⟩ := x
    obtain ⟨hk, hr⟩ := List.pairwise_cons.mp h
    rw [Cells.read_cons, List.mem_cons, ih hr, Prod.mk.injEq]
    split
    · subst k
      rw [Cells.read_eq_none hk]
      simp [eq_comm]
    · rename_i hne
      simp [Ne.symm hne]

/-- Cells with rising keys that read the same are the same list. -/
theorem Cells.eq_of_read_eq (h : c.Pairwise (fun x y => x.1 < y.1)) (h' : c'.Pairwise (fun x y => x.1 < y.1))
    (heq : ∀ a, Cells.read c a = Cells.read c' a) : c = c' := by
  have hmem (x : Nat × β) : x ∈ c ↔ x ∈ c' := by rw [Cells.mem_iff_read h, Cells.mem_iff_read h', heq]
  have hnodup {l : Cells β} (hl : l.Pairwise (fun x y => x.1 < y.1)) : l.Nodup :=
    hl.imp fun hlt he => absurd (congrArg Prod.fst he) hlt.ne
  exact ((List.perm_ext_iff_of_nodup (hnodup h) (hnodup h')).mpr hmem).eq_of_pairwise
    (fun _ _ _ _ hab hba => absurd hab hba.asymm) h h'

end

/-- Settles O50: canonical form has rising keys. -/
theorem canonicalBuffersAreEqualData : Obligations.CanonicalBuffersAreEqualData := by
  unfold Obligations.CanonicalBuffersAreEqualData
  intro m m' h h' heq
  exact Cells.eq_of_read_eq h.1 h'.1 heq

/-! ### A frame that reads an unwritten byte -/

/-- A frame whose data bytes raise a fault, its range being in the data buffer, raises it (R200, R236). -/
theorem execWriteCmdData_raises {d : SlotId} {cp : Bool} {cmd : Byte} {len addr : BitVec 16} {s u t : State}
    {k : FaultKind} (hlen : addr.toNat + len.toNat ≤ 65536)
    (hstart : andThen (beginStep d s) (sendCommand d cp cmd) = .next u) (hdata : sendData d len addr u = raise k t) :
    execWriteCmdData d cp cmd len addr s = raise k t := by
  have hrange : ¬ rangeLeavesDbuf len addr = true := by rw [rangeLeavesDbuf_iff]; omega
  rw [execWriteCmdData, if_neg hrange, sendFrame, hstart, andThen_next, hdata, andThen_raise, andThen_raise]

/-- Settles O40: the frame starts on the free bus and its byte loop stops at the unwritten byte. -/
theorem unwrittenByteFaultsAfterItsForerunners : Obligations.UnwrittenByteFaultsAfterItsForerunners := by
  unfold Obligations.UnwrittenByteFaultsAfterItsForerunners
  intro s d cp cmd len addr k hlen hk ho hn hw hu
  obtain ⟨u, hstart, r1, m1⟩ := frameStart_free cp cmd hk ho
  have hslot : u.slot d = s.slot d := m1.slot d
  have hsample : u.sample = fun j => s.sample (j + if cp then 8 else 0) := m1.sample_fun
  obtain ⟨-, -, -, -, howner, hbus, -, -, hdbuf, -, hparams, -⟩ := m1.rest
  have hdata : u.dcData = s.dcData := by simp [hparams]
  obtain ⟨t, hraise, r2, m2⟩ := sendData_owner_unwritten (s := u) (by rwa [hslot]) howner hn (by rwa [hdbuf])
    (by rwa [hdbuf])
  rw [hslot, hbus, hdbuf, hsample, hdata] at r2
  have hcount : (if cp then 8 else 0) + 8 * k = 8 * (k + if cp then 1 else 0) := by split <;> omega
  have hframe := (m1.trans m2).rest
  rw [hcount] at hframe
  refine ⟨{ t with fault := some .unwrittenDbuf }, execWriteCmdData_raises hlen hstart hraise,
    (r1.trans r2).right rfl rfl rfl, ?_⟩
  rw [State.ext_iff]
  simp [hframe, State.envAfterSamples]

/-! ### The operations keep the canonical form -/

/-- The invariant looks at the data buffer, the levels and the directions only. -/
theorem CellsInv.congr {s t : State} (h : CellsInv s) (hb : t.dbuf = s.dbuf) (hl : t.lvl = s.lvl)
    (hd : t.dir = s.dir) : CellsInv t :=
  ⟨by rw [hb]; exact h.dbuf, by rw [hl]; exact h.lvl, by rw [hd]; exact h.dir⟩

section
variable {s : State} (h : CellsInv s)
include h

/-- Only real pins have a level (R64). -/
theorem CellsInv.pinWrite (p : PinId) (b : Level) : CellsInv (s.pinWrite p b) := by
  unfold State.pinWrite
  split
  · exact h
  · rename_i hp; exact ⟨h.dbuf, Cells.wf_write (pin_lt hp) h.lvl, h.dir⟩

/-- Only real pins have a direction (R63). -/
theorem CellsInv.pinSetup (p : PinId) (d : Dir) : CellsInv (s.pinSetup p d) := by
  unfold State.pinSetup
  split
  · exact h
  · rename_i hp; exact ⟨h.dbuf, h.lvl, Cells.wf_write (pin_lt hp) h.dir⟩

theorem CellsInv.pinRead (p : PinId) : CellsInv (s.pinRead p).2 := h.congr (by simp) (by simp) (by simp)

theorem CellsInv.wait (timed : Bool) : CellsInv (s.wait timed) := h.congr (by simp) (by simp) (by simp)

theorem CellsInv.notifyAlive (timed : Bool) : CellsInv (s.notifyAlive timed) := h.congr (by simp) (by simp) (by simp)

theorem CellsInv.report (c : ErrCode) : CellsInv (s.report c) := h.congr rfl rfl rfl

theorem CellsInv.modeSelect (d : SlotId) (b : Level) : CellsInv (s.modeSelect d b) := h.pinWrite _ _

theorem CellsInv.releaseBus (d : SlotId) : CellsInv (s.releaseBus d) := by
  rw [State.releaseBus_eq]
  exact (h.pinWrite _ _).congr rfl rfl rfl

theorem CellsInv.engineBit (timed : Bool) (c : Slot) (v : XferWord) (k : Nat) (acc : XferWord) :
    CellsInv (engineBit timed c v k acc s).2 := by
  unfold Machine.engineBit
  cases c.cpha with
  | leading => exact (((((h.pinWrite _ _).wait _).pinWrite _ _).pinRead _).wait _).pinWrite _ _
  | trailing => exact (((((h.wait _).pinWrite _ _).pinWrite _ _).wait _).pinRead _).pinWrite _ _

end

/-- By induction on the bits still to send (R143). -/
theorem CellsInv.engineLoop (timed : Bool) (c : Slot) (v : XferWord) (n m : Nat) :
    ∀ (acc : XferWord) (s : State), CellsInv s → CellsInv (engineLoop timed c v n m acc s).2 := by
  induction m with
  | zero => exact fun _ _ h => h
  | succ m ih => exact fun acc s h => ih _ _ (h.engineBit _ _ _ _ _)

theorem CellsInv.engine {s : State} (h : CellsInv s) (timed : Bool) (d : SlotId) (v : XferWord) (n : Nat) :
    CellsInv (engine timed d v n s).2 :=
  (CellsInv.engineLoop timed (s.slot d) v n n _ _ (h.pinWrite _ _)).notifyAlive _

/-! ### Every command keeps it -/

/-- The next state, if there is one, has its memories in canonical form. -/
def Canonical (r : Result) : Prop := ∀ t, r = .next t → CellsInv t

theorem CellsInv.next {s : State} (h : CellsInv s) : Canonical (.next s) := by
  rintro t ⟨⟩
  exact h

theorem CellsInv.complete {s : State} (h : CellsInv s) : Canonical (complete s) :=
  CellsInv.next (h.congr rfl rfl rfl)

theorem canonical_raise (k : FaultKind) (s : State) : Canonical (raise k s) :=
  fun t ht => absurd ht (raise_ne_next k s t)

theorem Canonical.andThen {r : Result} {f : State → Result} (hr : Canonical r)
    (hf : ∀ t, CellsInv t → Canonical (f t)) : Canonical (andThen r f) := by
  intro t ht
  obtain ⟨u, hu, hfu⟩ := andThen_eq_next.mp ht
  exact hf u (hr u hu) t hfu

theorem Canonical.andThen_complete {r : Result} (hr : Canonical r) : Canonical (Machine.andThen r complete) :=
  hr.andThen fun _ h => h.complete

section
variable {s : State} (h : CellsInv s)
include h

theorem reportAndComplete_canonical (c : ErrCode) : Canonical (reportAndComplete c s) := (h.report c).complete

theorem setupFails_canonical (c : ErrCode) : Canonical (setupFails c s) :=
  CellsInv.complete ((h.report c).congr rfl rfl rfl)

theorem setupHw_canonical (clk sdo sdi : PinId) (iface : BitVec 8) : Canonical (setupHw clk sdo sdi iface s) := by
  have hask : CellsInv ((s.drawFactory iface clk sdo sdi).2.emit (.factory (s.drawFactory iface clk sdo sdi).1)) :=
    h.congr (by simp) (by simp) (by simp)
  simp only [setupHw]
  split
  · exact setupFails_canonical hask _
  · exact CellsInv.complete (hask.congr rfl rfl rfl)

theorem setupSw_canonical (clk sdo sdi : PinId) (iface : BitVec 8) : Canonical (setupSw clk sdo sdi iface s) := by
  have hbus : CellsInv (s.setBus clk sdo sdi false iface .readySw) := h.congr rfl rfl rfl
  exact ((((hbus.pinSetup _ _).pinWrite _ _).pinSetup _ _).pinSetup _ _).complete

theorem execSetup_canonical (clk sdo sdi : PinId) (hw : Bool) (iface : BitVec 8) :
    Canonical (execSetup clk sdo sdi hw iface s) := by
  unfold execSetup
  split
  · exact reportAndComplete_canonical h _
  split
  · exact setupFails_canonical h _
  split
  · exact canonical_raise _ _
  split
  · exact setupHw_canonical h clk sdo sdi iface
  · exact setupSw_canonical h clk sdo sdi iface

/-- A slot is written, and a pin of it becomes an output with its level (R118, R127). -/
theorem CellsInv.setSlot_drive (d : SlotId) (c : Slot) (p : PinId) (b : Level) :
    CellsInv (((s.setSlot d c).pinSetup p .output).pinWrite p b) := by
  have hset : CellsInv (s.setSlot d c) := h.congr rfl rfl rfl
  exact (hset.pinSetup _ _).pinWrite _ _

theorem execRegister_canonical (d : SlotId) (cpol : Level) (cpha : ClockPhase) (order : BitOrder) (cs : PinId)
    (rate : BitVec 32) : Canonical (execRegister d cpol cpha order cs rate s) := by
  unfold execRegister
  split
  · exact reportAndComplete_canonical h _
  split
  · exact reportAndComplete_canonical h _
  split
  · exact canonical_raise _ _
  · exact (h.setSlot_drive d _ cs _).complete

theorem execUnregister_canonical (d : SlotId) : Canonical (execUnregister d s) := by
  unfold execUnregister
  split
  · exact reportAndComplete_canonical h _
  split
  · exact canonical_raise _ _
  · exact CellsInv.complete (h.congr rfl rfl rfl)

theorem execSetDc_canonical (d : SlotId) (dc : PinId) : Canonical (execSetDc d dc s) := by
  unfold execSetDc
  split
  · exact canonical_raise _ _
  · exact (h.setSlot_drive d _ dc _).complete

theorem execIsReady_canonical (d : SlotId) : Canonical (execIsReady d s) := by
  unfold execIsReady
  split
  · exact CellsInv.complete (h.congr rfl rfl rfl)
  · exact CellsInv.complete (h.congr rfl rfl rfl)
  · exact CellsInv.complete (h.congr (by simp) (by simp) (by simp))

theorem beginStep_canonical (d : SlotId) : Canonical (beginStep d s) := by
  by_cases hk : (s.slot d).kind = .null
  · rw [beginStep_null hk]
    exact (h.report .uninit).next
  · have hown : CellsInv { s with owner := some d } := h.congr rfl rfl rfl
    rw [beginStep_registered hk]
    rcases takeBus_cases d s with ⟨-, he⟩ | ⟨-, he⟩ | ⟨_, -, -, he⟩ <;> rw [he]
    · exact (hown.pinWrite _ _).next
    · exact canonical_raise _ _
    · exact canonical_raise _ _

theorem endStep_canonical (d : SlotId) : Canonical (endStep d s) := by
  by_cases hk : (s.slot d).kind = .null
  · rw [endStep_null hk]
    exact (h.report .uninit).next
  · rw [endStep_registered hk]
    exact (h.releaseBus d).next

theorem writeStep_canonical (d : SlotId) (v : XferWord) (n : Nat) : Canonical (writeStep d v n s) := by
  by_cases hk : (s.slot d).kind = .null
  · rw [writeStep_null v n hk]
    exact (h.report .uninit).next
  · rw [writeStep_registered v n hk]
    split
    · exact (h.engine _ d v n).next
    · exact canonical_raise _ _

/-- An engine's value goes to RESULT at the end of a command (R150, R156). -/
theorem storeResult_canonical (f : XferWord → XferWord) (timed : Bool) (d : SlotId) (v : XferWord) (n : Nat) :
    Canonical (complete (storeResult f (engine timed d v n s))) :=
  CellsInv.complete ((h.engine timed d v n).congr rfl rfl rfl)

theorem nullTransfer_canonical : Canonical (complete s.nullTransfer) :=
  CellsInv.complete (h.congr rfl rfl rfl)

theorem execTransfer_canonical (d : SlotId) (v : XferWord) (n : Nat) : Canonical (execTransfer d v n s) := by
  by_cases hk : (s.slot d).kind = .null
  · simp only [execTransfer, hk]
    exact nullTransfer_canonical h
  · rw [execTransfer_registered v n hk]
    split
    · exact storeResult_canonical h _ _ _ _ _
    · exact canonical_raise _ _

theorem execTransfer8_canonical (d : SlotId) (b : Byte) : Canonical (execTransfer8 d b s) := by
  by_cases hk : (s.slot d).kind = .null
  · simp only [execTransfer8, hk]
    exact nullTransfer_canonical h
  · rw [execTransfer8_registered b hk]
    split
    · exact storeResult_canonical h _ _ _ _ _
    · exact canonical_raise _ _

theorem sendCommand_canonical (d : SlotId) (cp : Bool) (cmd : Byte) : Canonical (sendCommand d cp cmd s) := by
  cases cp with
  | false => exact h.next
  | true => exact writeStep_canonical (h.modeSelect d _) d _ 8

end

/-- By induction on the bytes still to send (R200). -/
theorem sendBytes_canonical (d : SlotId) (n : Nat) :
    ∀ (a : Nat) (s : State), CellsInv s → Canonical (sendBytes d a n s) := by
  induction n with
  | zero => exact fun _ _ h => h.next
  | succ n ih =>
    intro a s h
    cases hb : s.memRead a with
    | none => simp only [sendBytes, hb]; exact canonical_raise _ _
    | some b => simp only [sendBytes, hb]; exact (writeStep_canonical h d _ 8).andThen (ih _)

section
variable {s : State} (h : CellsInv s)
include h

theorem sendData_canonical (d : SlotId) (len addr : BitVec 16) : Canonical (sendData d len addr s) := by
  unfold sendData
  split
  · exact h.next
  · exact sendBytes_canonical d _ _ _ (h.modeSelect d _)

theorem sendFrame_canonical (d : SlotId) (cp : Bool) (cmd : Byte) (len addr : BitVec 16) :
    Canonical (sendFrame d cp cmd len addr s) := by
  have hdata := ((beginStep_canonical h d).andThen fun _ hu => sendCommand_canonical hu d cp cmd).andThen
    fun _ hu => sendData_canonical hu d len addr
  exact hdata.andThen fun _ hu => (endStep_canonical hu d).andThen fun _ hv => (hv.modeSelect d _).next

theorem execWriteCmdData_canonical (d : SlotId) (cp : Bool) (cmd : Byte) (len addr : BitVec 16) :
    Canonical (execWriteCmdData d cp cmd len addr s) := by
  unfold execWriteCmdData
  split
  · exact reportAndComplete_canonical h .range
  · exact (sendFrame_canonical h d cp cmd len addr).andThen_complete

/-- Every command that completes keeps the memories in canonical form. -/
theorem exec_canonical (i : Instr) : Canonical (exec i s) := by
  cases i with
  | setup clk sdo sdi hw iface => exact execSetup_canonical h clk sdo sdi hw iface
  | register d cpol cpha order cs rate => exact execRegister_canonical h d cpol cpha order cs rate
  | unregister d => exact execUnregister_canonical h d
  | setDc d dc => exact execSetDc_canonical h d dc
  | beginTxn d => exact (beginStep_canonical h d).andThen_complete
  | endTxn d => exact (endStep_canonical h d).andThen_complete
  | transfer d value nbits => exact execTransfer_canonical h d value nbits
  | write d value nbits => exact (writeStep_canonical h d value nbits).andThen_complete
  | transfer8 d byte => exact execTransfer8_canonical h d byte
  | isReady d => exact execIsReady_canonical h d
  | writeCmdData d cp cmd len addr => exact execWriteCmdData_canonical h d cp cmd len addr

end

theorem cellsInv_reset : CellsInv State.reset := ⟨Memory.wf_reset, Cells.wf_nil _, Cells.wf_nil _⟩

/-- Settles O58: a command keeps the form, so does the host's write of a byte, and a reset empties the memories. -/
theorem stepKeepsCanonicalForm : Obligations.StepKeepsCanonicalForm := by
  unfold Obligations.StepKeepsCanonicalForm
  intro s t hs h
  obtain ⟨-, ⟨-, rfl⟩ | ⟨a, rest, -, ⟨w, i, -, -, he⟩ | ⟨w, e, -, -, rfl⟩ | ⟨r, -, rfl⟩ | ⟨r, m, -, rfl⟩ |
    ⟨x, b, -, rfl⟩ | ⟨-, rfl⟩⟩⟩ := step_cases h
  · exact hs
  · have hstart : CellsInv (s.taken rest).startCommand := hs.congr rfl rfl rfl
    exact exec_canonical hstart i t he
  · exact hs.congr rfl rfl rfl
  · exact hs.congr rfl rfl rfl
  · exact hs.congr (by simp [State.taken]) (by simp [State.taken]) (by simp [State.taken])
  · exact ⟨Memory.wf_write hs.dbuf, hs.lvl, hs.dir⟩
  · exact cellsInv_reset.congr rfl rfl rfl

end Sys2Proof.Machine

/-!
The family of 30_encoding.md: decode and encode are each other's inverse on legal words (R100), every other word is
illegal (R89, R96, R97, R98), and what an accepted word carries without meaning is ignored (R94, R95).
-/

namespace Sys2Proof

open Laws

/-! ### Fields of a word, put back in their places -/

/-- The word with 1 in every bit of the field `[lo+len-1 : lo]`, every other bit 0. -/
def fieldMask (lo len : Nat) : Command := placed lo (BitVec.allOnes len)

/-- A field of a word, put back in its place, is the word under the field's mask. -/
theorem placed_field (w : Command) (lo len : Nat) : placed lo (field w lo len) = w &&& fieldMask lo len := by
  apply BitVec.eq_of_getLsbD_eq
  intro i hi
  rw [BitVec.getLsbD_and, fieldMask, placed_getLsbD, placed_getLsbD, field, BitVec.getLsbD_extractLsb',
    BitVec.getLsbD_allOnes]
  by_cases hlo : lo ≤ i
  · simp [hi, hlo, Bool.and_comm]
  · simp [hlo]

theorem field_and (w m : Command) (lo len : Nat) : field (w &&& m) lo len = field w lo len &&& field m lo len :=
  BitVec.extractLsb'_and

/-- A word under masks that leave no bit out is the word. -/
theorem masked_eq_self {w m : Command} (h : m = BitVec.allOnes 64) : w &&& m = w := by rw [h, BitVec.and_allOnes]

@[simp] theorem devBits_fieldDev (w : Command) : devBits (fieldDev w) = field w 56 4 := rfl

@[simp] theorem bitOfPhase_phaseOfBit (b : Bool) : bitOfPhase (phaseOfBit b) = b := by cases b <;> rfl

@[simp] theorem bitOfOrder_orderOfBit (b : Bool) : bitOfOrder (orderOfBit b) = b := by cases b <;> rfl

@[simp] theorem phaseOfBit_bitOfPhase (c : ClockPhase) : phaseOfBit (bitOfPhase c) = c := by cases c <;> rfl

@[simp] theorem orderOfBit_bitOfOrder (o : BitOrder) : orderOfBit (bitOfOrder o) = o := by cases o <;> rfl

/-- A bit of a word as a field of one bit. -/
@[simp] theorem ofBool_getLsbD (w : Command) (lo : Nat) : BitVec.ofBool (w.getLsbD lo) = field w lo 1 := by
  apply BitVec.eq_of_getLsbD_eq
  intro i hi
  obtain rfl : i = 0 := by omega
  simp [field]

/-! ### The rows of the opcode table -/

/-- The command of `i`'s row with its operands read from `w` (R82 to R91). -/
def Instr.readFrom (w : Command) : Instr → Instr
  | .setup _ _ _ _ _ => .setup (field w 40 8) (field w 32 8) (field w 24 8) (w.getLsbD 23) (field w 8 8)
  | .register _ _ _ _ _ _ =>
      .register (fieldDev w) (w.getLsbD 55) (phaseOfBit (w.getLsbD 54)) (orderOfBit (w.getLsbD 53)) (field w 40 8)
        (field w 0 32)
  | .unregister _ => .unregister (fieldDev w)
  | .setDc _ _ => .setDc (fieldDev w) (field w 40 8)
  | .beginTxn _ => .beginTxn (fieldDev w)
  | .endTxn _ => .endTxn (fieldDev w)
  | .transfer _ _ _ => .transfer (fieldDev w) (field w 0 16) (field w 48 5).toNat
  | .write _ _ _ => .write (fieldDev w) (field w 0 16) (field w 48 5).toNat
  | .transfer8 _ _ => .transfer8 (fieldDev w) (field w 0 8)
  | .isReady _ => .isReady (fieldDev w)
  | .writeCmdData _ _ _ _ _ =>
      .writeCmdData (fieldDev w) (w.getLsbD 55) (field w 40 8) (field w 16 16) (field w 0 16)

/-- `w` has the opcode of `i`'s row and 0 in every bit that row reserves (R96, R97). -/
def Instr.Matches (w : Command) (i : Instr) : Prop := w &&& Encoding.mask i = placed 60 (Encoding.opcode i)

/-- Why a word of `i`'s row is rejected for a field value (R89). -/
def Instr.fieldError : Instr → Illegal
  | .register _ _ _ _ _ _ => .rateZero
  | _ => .nbitsRange

theorem Instr.fieldError_ne_reservedOpcode (i : Instr) : i.fieldError ≠ .reservedOpcode := by
  cases i <;> simp [Instr.fieldError]

theorem encode_matches (i : Instr) : i.Matches (encode i) := by
  cases i with
  | setup clk sdo sdi hw iface => exact Encoding.setup clk sdo sdi hw iface
  | register d cpol cpha order cs rate => exact Encoding.register d cpol cpha order cs rate
  | unregister d => exact Encoding.unregister d
  | setDc d dc => exact Encoding.setDc d dc
  | beginTxn d => exact Encoding.beginTxn d
  | endTxn d => exact Encoding.endTxn d
  | transfer d value nbits => exact Encoding.transfer d value nbits
  | write d value nbits => exact Encoding.write d value nbits
  | transfer8 d byte => exact Encoding.transfer8 d byte
  | isReady d => exact Encoding.isReady d
  | writeCmdData d cp cmd len addr => exact Encoding.writeCmdData d cp cmd len addr

/-! ### Decode, row by row -/

theorem ifMatches_eq_ok {w mask mtch : Command} {x : Except Illegal Instr} {i : Instr} :
    ifMatches w mask mtch x = .ok i ↔ w &&& mask = mtch ∧ x = .ok i := by
  unfold ifMatches
  split <;> simp [*]

theorem ifMatches_ne_reservedOpcode {w mask mtch : Command} {x : Except Illegal Instr}
    (hx : x ≠ .error .reservedOpcode) : ifMatches w mask mtch x ≠ .error .reservedOpcode := by
  unfold ifMatches
  split
  · exact hx
  · simp

theorem ifLegal_eq_ok {e : Illegal} {i j : Instr} : ifLegal e i = .ok j ↔ i.wf = true ∧ i = j := by
  unfold ifLegal
  split <;> simp [*]

theorem ifLegal_of_wf {e : Illegal} {i : Instr} (h : i.wf = true) : ifLegal e i = .ok i := if_pos h

theorem ifLegal_of_not_wf {e : Illegal} {i : Instr} (h : i.wf = false) : ifLegal e i = .error e := by
  simp [ifLegal, h]

theorem ifLegal_ne_reservedOpcode {e : Illegal} {i : Instr} (he : e ≠ .reservedOpcode) :
    ifLegal e i ≠ .error .reservedOpcode := by
  unfold ifLegal
  split <;> simp [he]

/-- A row's mask covers the opcode. -/
theorem field_opcode_of_matches {w : Command} {i : Instr} (h : i.Matches w) : field w 60 4 = Encoding.opcode i := by
  have hmask : field (Encoding.mask i) 60 4 = BitVec.allOnes 4 := by cases i <;> simp only [Encoding.mask] <;> decide
  calc field w 60 4 = field (w &&& Encoding.mask i) 60 4 := by rw [field_and, hmask, BitVec.and_allOnes]
    _ = Encoding.opcode i := by rw [h, field_placed _ (by decide)]

/-- The opcodes of R96. -/
abbrev ReservedOpcode (op : BitVec 4) : Prop := op = 0x0#4 ∨ op = 0xC#4 ∨ op = 0xD#4 ∨ op = 0xE#4 ∨ op = 0xF#4

/-- A command of each row of the opcode table. -/
def Instr.rows : List Instr :=
  [.setup 0 0 0 false 0, .register 0 false .leading .msbFirst 0 0, .unregister 0, .setDc 0 0, .beginTxn 0, .endTxn 0,
    .transfer 0 0 0, .write 0 0 0, .transfer8 0 0, .isReady 0, .writeCmdData 0 false 0 0 0]

theorem reservedOpcode_or_row : ∀ op : BitVec 4, ReservedOpcode op ∨ ∃ i ∈ Instr.rows, op = Encoding.opcode i := by
  decide

theorem decode_of_reservedOpcode {w : Command} (h : ReservedOpcode (field w 60 4)) :
    decode w = .error .reservedOpcode := by
  unfold decode
  rcases h with h | h | h | h | h <;> rw [h] <;> rfl

/-- Decode of a word with the opcode of `i`'s row: reserved bits first, then field values (R100). -/
theorem decode_of_opcode {w : Command} {i : Instr} (h : field w 60 4 = Encoding.opcode i) :
    decode w = ifMatches w (Encoding.mask i) (placed 60 (Encoding.opcode i)) (ifLegal i.fieldError (i.readFrom w)) := by
  cases i with
  | register d cpol cpha order cs rate | transfer d value nbits | write d value nbits =>
    simp [decode, h, Encoding.opcode, Encoding.mask, placed, Instr.readFrom, Instr.fieldError]
  | _ => simp [decode, h, Encoding.opcode, Encoding.mask, placed, Instr.readFrom, ifLegal, Instr.wf]

/-- A word of a row decodes to the row's command, unless a field value is illegal (R89, R100). -/
theorem decode_of_matches {w : Command} {i : Instr} (h : i.Matches w) :
    decode w = ifLegal i.fieldError (i.readFrom w) :=
  (decode_of_opcode (field_opcode_of_matches h)).trans (if_pos h)

theorem matches_readFrom {w : Command} {i : Instr} (h : i.Matches w) : (i.readFrom w).Matches w := by
  cases i <;> exact h

theorem readFrom_readFrom (w : Command) (i : Instr) : (i.readFrom w).readFrom w = i.readFrom w := by
  cases i <;> rfl

/-- Decode accepts a word as `i` exactly when `i` is well formed, the word is of `i`'s row, and `i`'s operands are the
word's fields. -/
theorem decode_eq_ok_iff {w : Command} {i : Instr} :
    decode w = .ok i ↔ i.wf = true ∧ i.Matches w ∧ i.readFrom w = i := by
  constructor
  · intro h
    rcases reservedOpcode_or_row (field w 60 4) with hres | ⟨j, -, hop⟩
    · rw [decode_of_reservedOpcode hres] at h
      cases h
    · rw [decode_of_opcode hop, ifMatches_eq_ok, ifLegal_eq_ok] at h
      obtain ⟨hm, hwf, rfl⟩ := h
      exact ⟨hwf, matches_readFrom hm, readFrom_readFrom w j⟩
  · rintro ⟨hwf, hm, hread⟩
    rw [decode_of_matches hm, hread, ifLegal_of_wf hwf]

/-! ### The fields of an encoding -/

theorem fieldDev_encodeX (op : BitVec 4) (d : SlotId) (v : XferWord) (n : Nat) : fieldDev (encodeX op d v n) = d := by
  simp [fieldDev, encodeX, encodeHead, devBits, field_or, field_placed, field_placed_apart]

theorem field_value_encodeX (op : BitVec 4) (d : SlotId) (v : XferWord) (n : Nat) :
    field (encodeX op d v n) 0 16 = v := by
  simp [encodeX, encodeHead, field_or, field_placed, field_placed_apart]

/-- NBITS keeps the count modulo its five bits (R88). -/
theorem field_nbits_encodeX (op : BitVec 4) (d : SlotId) (v : XferWord) (n : Nat) :
    (field (encodeX op d v n) 48 5).toNat = n % 32 := by
  simp [encodeX, encodeHead, field_or, field_placed, field_placed_apart]

/-- The bit counts that the five bits of NBITS can hold (R88). -/
def Instr.nbitsFits : Instr → Prop
  | .transfer _ _ n => n < 32
  | .write _ _ n => n < 32
  | _ => True

theorem Instr.nbitsFits_of_wf {i : Instr} (h : i.wf = true) : i.nbitsFits := by
  cases i with
  | transfer d v n | write d v n =>
    simp only [Instr.wf, nbitsLegal, Bool.and_eq_true, decide_eq_true_eq] at h
    simp only [Instr.nbitsFits]
    omega
  | _ => trivial

/-- Reading an encoding's fields gives the command back. -/
theorem readFrom_encode {i : Instr} (h : i.nbitsFits) : i.readFrom (encode i) = i := by
  cases i with
  | transfer d v n | write d v n =>
    simp only [Instr.readFrom, encode, fieldDev_encodeX, field_value_encodeX, field_nbits_encodeX, Nat.mod_eq_of_lt h]
  | _ =>
    simp [-BitVec.getLsbD_eq_getElem, Instr.readFrom, encode, fieldDev, encodeHead, devBits, field_or, field_placed,
      field_placed_apart, placed_getLsbD]

/-- The command read from a word of its row encodes to that word: the row's mask and the masks of its fields leave no
bit out. -/
theorem encode_readFrom {w : Command} {i : Instr} (h : i.Matches w) : encode (i.readFrom w) = w := by
  cases i with
  | _ =>
    simp only [Instr.Matches, Encoding.mask, Encoding.opcode] at h
    simp only [Instr.readFrom, encode, encodeX, encodeHead, devBits_fieldDev, ofBool_getLsbD, bitOfPhase_phaseOfBit,
      bitOfOrder_orderOfBit, BitVec.ofNat_toNat, BitVec.setWidth_eq, placed_field, ← h, ← BitVec.and_or_distrib_left]
    exact masked_eq_self (by decide)

/-- Settles O1: an encoding is of its command's row, and its fields are the operands. -/
theorem decodeOfEncodeIsTheInstruction : Obligations.DecodeOfEncodeIsTheInstruction := by
  unfold Obligations.DecodeOfEncodeIsTheInstruction
  exact fun i hwf => decode_eq_ok_iff.2 ⟨hwf, encode_matches i, readFrom_encode (Instr.nbitsFits_of_wf hwf)⟩

/-- Settles O2: an accepted word is of its command's row, so it is made of its fields. -/
theorem acceptedWordIsItsEncoding : Obligations.AcceptedWordIsItsEncoding := by
  unfold Obligations.AcceptedWordIsItsEncoding
  intro w i h
  obtain ⟨hwf, hm, hread⟩ := decode_eq_ok_iff.1 h
  exact ⟨hwf, by rw [← encode_readFrom hm, hread]⟩

/-! ### Illegal words -/

/-- Only a reserved opcode is rejected for the opcode: a word of a row is accepted or rejected for its other bits. -/
theorem decode_eq_reservedOpcode_iff (w : Command) :
    decode w = .error .reservedOpcode ↔ ReservedOpcode (field w 60 4) := by
  refine ⟨fun h => ?_, decode_of_reservedOpcode⟩
  rcases reservedOpcode_or_row (field w 60 4) with hres | ⟨i, -, hop⟩
  · exact hres
  · rw [decode_of_opcode hop] at h
    exact absurd h (ifMatches_ne_reservedOpcode (ifLegal_ne_reservedOpcode i.fieldError_ne_reservedOpcode))

/-- Settles O3, by `decode_eq_reservedOpcode_iff`. -/
theorem reservedOpcodesAreIllegal : Obligations.ReservedOpcodesAreIllegal := by
  unfold Obligations.ReservedOpcodesAreIllegal
  exact decode_eq_reservedOpcode_iff

/-- An encoding with an illegal field value is rejected for it (R89). -/
theorem decode_encode_of_not_wf {i : Instr} (hn : i.nbitsFits) (h : i.wf = false) :
    decode (encode i) = .error i.fieldError := by
  rw [decode_of_matches (encode_matches i), readFrom_encode hn, ifLegal_of_not_wf h]

theorem nbitsLegal_eq_false {n : Nat} (h : n = 0 ∨ (17 ≤ n ∧ n ≤ 31)) : nbitsLegal n = false := by
  rw [nbitsLegal, Bool.and_eq_false_iff, decide_eq_false_iff_not, decide_eq_false_iff_not]
  omega

/-- Settles O4, by `decode_encode_of_not_wf`. -/
theorem illegalFieldValuesAreRejected : Obligations.IllegalFieldValuesAreRejected := by
  unfold Obligations.IllegalFieldValuesAreRejected
  intro d v n cpol cpha order cs
  refine ⟨fun h => ?_, decode_encode_of_not_wf trivial rfl⟩
  have hfits : n < 32 := by omega
  have hillegal := nbitsLegal_eq_false h
  exact ⟨decode_encode_of_not_wf (i := .transfer d v n) hfits hillegal,
    decode_encode_of_not_wf (i := .write d v n) hfits hillegal⟩

/-- Settles O5: decode computes on the written words. -/
theorem specWordsDecodeAsWritten : Obligations.SpecWordsDecodeAsWritten := by
  unfold Obligations.SpecWordsDecodeAsWritten
  decide

end Sys2Proof

namespace Sys2Proof.Machine

/-- The step on an illegal word, from the state with the action taken and LAST_ERR cleared (R98, R231). -/
theorem step_command_error {s : State} {w : Command} {rest : List HostAction} {e : Illegal} (hf : s.fault = none)
    (ha : s.env.actions = .command w :: rest) (hd : decode w = .error e) :
    step s = execIllegal (s.taken rest).startCommand := by
  rw [step_action hf ha, runAction, runCommand, hd]

/-- Settles O7: `step_command_error`, with the state it leaves written out. -/
theorem illegalWordReportsSeven : Obligations.IllegalWordReportsSeven := by
  unfold Obligations.IllegalWordReportsSeven
  intro s w rest e hf ha hd
  exact step_command_error hf ha hd

/-! ### Operand bits without meaning -/

/-- A bit of the engine depends on the one bit of VALUE that it sends. -/
theorem engineBit_congr {v v' : XferWord} {k : Nat} (h : v.getLsbD k = v'.getLsbD k) (timed : Bool) (c : Slot)
    (acc : XferWord) (s : State) : engineBit timed c v k acc s = engineBit timed c v' k acc s := by
  unfold engineBit leadingBit trailingBit
  rw [h]

section
variable {v v' : XferWord} {n : Nat} (h : ∀ k, k < n → v.getLsbD k = v'.getLsbD k)
include h

/-- The loop sends no bit of VALUE at index `n` and above (R94). -/
theorem engineLoop_congr (timed : Bool) (c : Slot) {m : Nat} (hm : m ≤ n) (acc : XferWord) (s : State) :
    engineLoop timed c v n m acc s = engineLoop timed c v' n m acc s := by
  induction m generalizing acc s with
  | zero => rfl
  | succ m ih =>
    have hsent := h _ (bitIndex_lt (o := c.order) (show n - (m + 1) < n by omega))
    simp only [engineLoop, engineBit_congr hsent]
    exact ih (by omega) _ _

theorem engine_congr (timed : Bool) (d : SlotId) : engine timed d v n = engine timed d v' n := by
  funext s
  simp only [engine, engineLoop_congr h timed _ le_rfl]

theorem execTransfer_congr (d : SlotId) (s : State) : execTransfer d v n s = execTransfer d v' n s := by
  simp only [execTransfer, bbEngine, hwEngine, engine_congr h]

theorem execWrite_congr (d : SlotId) (s : State) : execWrite d v n s = execWrite d v' n s := by
  simp only [execWrite, writeStep, bbEngine, hwEngine, engine_congr h]

end

/-- Without a command byte there is nothing to send, whatever CMD holds (R95). -/
theorem sendCommand_absent (d : SlotId) (cmd : Byte) : sendCommand d false cmd = .next := rfl

/-- Settles O30: the engine sends only the bits below NBITS, and no command byte is sent when CP = 0. -/
theorem unusedOperandBitsAreIgnored : Obligations.UnusedOperandBitsAreIgnored := by
  unfold Obligations.UnusedOperandBitsAreIgnored
  intro s d v v' n cmd cmd' len addr
  refine ⟨fun h => ⟨execTransfer_congr h d s, execWrite_congr h d s⟩, ?_⟩
  simp only [exec, execWriteCmdData, sendFrame, sendCommand_absent]

end Sys2Proof.Machine

/-!
The family of 40_bus_manager.md. What the bus manager's commands answer, from the conditions their rules ask for; and
PIN_ALIAS (R110), which keeps the pin roles apart at every step.
-/

namespace Sys2Proof.Machine

/-! ### Reports and driven pins -/

theorem reportAndComplete_eq (c : ErrCode) (s : State) : reportAndComplete c s = .next (reported c s) := rfl

/-- A pin becomes an output and takes its level at once (R118, R126). -/
theorem drive_records (p : PinId) (b : Level) (s : State) :
    Records s ((s.pinSetup p .output).pinWrite p b) (setupEvent p .output ++ writeEvent p b) :=
  (s.pinSetup_records p .output).trans (State.pinWrite_records p b _)

/-- The end of REGISTER and of SET_DC: the slot is written, its pin becomes an output and takes its level, and nothing
else changes (R118, R127). -/
theorem complete_setSlot_drive (d : SlotId) (c : Slot) (p : PinId) (b : Level) (s : State) :
    ∃ t, complete (((s.setSlot d c).pinSetup p .output).pinWrite p b) = .next t ∧
      Records s t (setupEvent p .output ++ writeEvent p b) ∧
      t = { s with
        pc := s.pc + 1, slots := s.slots.set d.val c, trace := t.trace, lvl := t.lvl, dir := t.dir } := by
  refine ⟨_, rfl, ?_, ?_⟩
  · exact ((drive_records p b (s.setSlot d c)).left (s' := s) rfl rfl rfl).right (t' := State.advance _) rfl rfl rfl
  · rw [State.ext_iff]; simp

/-! ### SETUP -/

theorem execSetup_configured {s : State} (hc : s.cstate ≠ .unconfigured) (clk sdo sdi : PinId) (hw : Bool)
    (iface : BitVec 8) : execSetup clk sdo sdi hw iface s = .next (reported .notReady s) := if_pos hc

section
variable {s : State} (hc : s.cstate = .unconfigured)
include hc

theorem execSetup_noClk (sdo sdi : PinId) (hw : Bool) (iface : BitVec 8) :
    execSetup noPin sdo sdi hw iface s = .next { reported .setupNoClk s with cstate := .failed } := by
  rw [execSetup, if_neg (not_not.mpr hc), if_pos rfl]
  rfl

/-- With a clock pin SETUP looks at the pins' roles, and then at the kind of bus (R112). -/
theorem execSetup_clk {clk : PinId} (hclk : clk ≠ noPin) (sdo sdi : PinId) (hw : Bool) (iface : BitVec 8) :
    execSetup clk sdo sdi hw iface s =
      if s.setupAlias clk sdo sdi then raise .pinAlias s
      else if hw then setupHw clk sdo sdi iface s else setupSw clk sdo sdi iface s := by
  rw [execSetup, if_neg (not_not.mpr hc), if_neg hclk]

theorem execSetup_shared {clk sdo sdi : PinId} (hclk : clk ≠ noPin) (ha : ¬ busPinsFree s clk sdo sdi) (hw : Bool)
    (iface : BitVec 8) : execSetup clk sdo sdi hw iface s = faultAt .pinAlias s := by
  rw [execSetup_clk hc hclk, if_pos (State.setupAlias_iff.mpr ha), raise_eq_faultAt]

theorem execSetup_free {clk sdo sdi : PinId} (hclk : clk ≠ noPin) (hfree : busPinsFree s clk sdo sdi) (hw : Bool)
    (iface : BitVec 8) :
    execSetup clk sdo sdi hw iface s =
      if hw then setupHw clk sdo sdi iface s else setupSw clk sdo sdi iface s := by
  rw [execSetup_clk hc hclk, if_neg fun ha => State.setupAlias_iff.mp ha hfree]

end

/-- The software bus: clock out and high, data-out out, data-in in (R112, R113). -/
theorem setupSw_spec (clk sdo sdi : PinId) (iface : BitVec 8) (s : State) :
    ∃ t, setupSw clk sdo sdi iface s = .next t ∧
      Records s t (setupEvent clk .output ++ writeEvent clk true ++ setupEvent sdo .output ++ setupEvent sdi .input) ∧
      t = { s with
        pc := s.pc + 1, cstate := .readySw, bus := { clk := clk, sdo := sdo, sdi := sdi, hw := false, iface := iface }
        trace := t.trace, lvl := t.lvl, dir := t.dir } := by
  refine ⟨_, rfl, ?_, ?_⟩
  · have hclk := drive_records clk true (s.setBus clk sdo sdi false iface .readySw)
    have hdata := (hclk.trans (State.pinSetup_records sdo .output _)).trans (State.pinSetup_records sdi .input _)
    exact (hdata.left (s' := s) rfl rfl rfl).right (t' := State.advance _) rfl rfl rfl
  · rw [State.ext_iff]; simp

/-- The factory gives a hardware-backed bus (R112). -/
theorem setupHw_ok {clk sdo sdi : PinId} {iface : BitVec 8} {s : State}
    (h : s.factoryAnswer iface clk sdo sdi = .ok) :
    setupHw clk sdo sdi iface s = .next { s with
      pc := s.pc + 1, cstate := .readyHw, bus := { clk := clk, sdo := sdo, sdi := sdi, hw := true, iface := iface }
      trace := s.trace ++ [.factory .ok], env := s.env.afterFactory } := by
  simp only [setupHw, State.drawFactory_eq, h]
  rfl

/-- The factory gives no bus: report 2, and the setup has failed (R112, R114). -/
theorem setupHw_fail {clk sdo sdi : PinId} {iface : BitVec 8} {s : State}
    (h : s.factoryAnswer iface clk sdo sdi = .fail) :
    setupHw clk sdo sdi iface s = .next { s with
      pc := s.pc + 1, cstate := .failed, status := s.status.report .setupHwAlloc
      trace := s.trace ++ [.factory .fail, .err .setupHwAlloc], env := s.env.afterFactory } := by
  simp [setupHw, State.drawFactory_eq, h, setupFails, State.report, State.emit, State.advance]

/-- Settles O18, branch by branch of SETUP. -/
theorem setupSetsUpTheBusOnce : Obligations.SetupSetsUpTheBusOnce := by
  unfold Obligations.SetupSetsUpTheBusOnce
  intro s clk sdo sdi hw iface
  refine ⟨fun hc => execSetup_configured hc .., ?_, fun hc hclk ha => execSetup_shared hc hclk ha .., ?_⟩
  · rintro hc rfl
    exact execSetup_noClk hc ..
  · intro hc hclk hfree
    have hexec := execSetup_free hc hclk hfree
    refine ⟨?_, fun h => (hexec true iface).trans (setupHw_ok h), fun h => (hexec true iface).trans (setupHw_fail h)⟩
    obtain ⟨t, ht, hspec⟩ := setupSw_spec clk sdo sdi iface s
    exact ⟨t, (hexec false iface).trans ht, hspec⟩

/-! ### REGISTER and UNREGISTER -/

theorem CState.delegate_eq_none {c : CState} (h : c ≠ .readySw ∧ c ≠ .readyHw) : c.delegate = none := by
  cases c <;> simp_all [CState.delegate]

/-- REGISTER on a ready bus looks at the slot, and then at the chip-select pin's roles (R118). -/
theorem execRegister_ready {s : State} {k : Kind} (hk : s.cstate.delegate = some k) (d : SlotId) (cpol : Level)
    (cpha : ClockPhase) (order : BitOrder) (cs : PinId) (rate : BitVec 32) :
    execRegister d cpol cpha order cs rate s =
      if (s.slot d).kind ≠ .null then reportAndComplete .regDuplicate s
      else if s.registerAlias cs then raise .pinAlias s
      else complete (((s.setSlot d { kind := k, cpol := cpol, cpha := cpha, order := order, cs := cs
                                     dc := (s.slot d).dc, rate := rate }).pinSetup cs .output).pinWrite cs s.csIdle) := by
  unfold execRegister
  rw [hk]
  rfl

/-- Settles O19, branch by branch of REGISTER. -/
theorem registerBindsTheSlot : Obligations.RegisterBindsTheSlot := by
  unfold Obligations.RegisterBindsTheSlot
  intro s d cpol cpha order cs rate
  constructor
  · intro hc
    rw [exec, execRegister, CState.delegate_eq_none hc, reportAndComplete_eq]
  · intro k hk
    have hdel : s.cstate.delegate = some k := by
      rcases hk with ⟨hc, rfl⟩ | ⟨hc, rfl⟩ <;> rw [hc] <;> rfl
    rw [exec, execRegister_ready hdel]
    refine ⟨fun hreg => if_pos hreg, fun hnull ha => ?_, fun hnull hcs hdc => ?_⟩
    · rw [if_neg (not_not.mpr hnull), if_pos (State.registerAlias_iff.mpr ha), raise_eq_faultAt]
    · rw [if_neg (not_not.mpr hnull), if_neg fun ha => State.registerAlias_iff.mp ha ⟨hcs, hdc⟩]
      exact complete_setSlot_drive ..

/-- Settles O20, branch by branch of UNREGISTER. -/
theorem unregisterFreesTheSlot : Obligations.UnregisterFreesTheSlot := by
  unfold Obligations.UnregisterFreesTheSlot
  intro s d
  refine ⟨fun hnull => if_pos hnull, fun hk ho => ?_, fun hk ho => ?_⟩ <;> rw [exec, execUnregister, if_neg hk]
  · rw [if_pos ho, raise_eq_faultAt]
  · rw [if_neg ho]
    rfl

/-! ### SET_DC and IS_READY -/

/-- Settles O21, by the PIN_ALIAS condition of SET_DC. -/
theorem setDcBindsAndDrivesData : Obligations.SetDcBindsAndDrivesData := by
  unfold Obligations.SetDcBindsAndDrivesData
  intro s d dc
  refine ⟨fun ha => if_pos (State.dcAlias_iff.mpr ha), fun hcs hdc => ?_⟩
  rw [exec, execSetDc, if_neg fun ha => State.dcAlias_iff.mp ha ⟨hcs, hdc⟩]
  exact complete_setSlot_drive ..

/-- Settles O22, kind by kind. -/
theorem isReadyAnswersByKind : Obligations.IsReadyAnswersByKind := by
  unfold Obligations.IsReadyAnswersByKind
  intro s d
  constructor <;> intro hk <;> rw [exec, execIsReady]
  · cases h : (s.slot d).kind with
    | null => rfl
    | bitbang => rfl
    | hw => exact absurd h hk
  · rw [hk, State.drawReady_eq]
    cases s.readyAnswer d <;> rfl

/-! ### The pin roles (R110) -/

theorem apart.symm {p q : PinId} (h : apart p q) : apart q p := fun hqp => hqp.trans (h hqp.symm)

/-- A slot written with a field as it was leaves that field of every slot. -/
theorem State.setSlot_field {α : Type} (f : Slot → α) {d : SlotId} {c : Slot} {s : State} (h : f c = f (s.slot d))
    (m : SlotId) : f ((s.setSlot d c).slot m) = f (s.slot m) := by
  rw [State.setSlot_slot]
  split
  · subst d; exact h
  · rfl

/-- Writing a slot keeps a symmetric relation between any two slots when the new slot meets it with every other. -/
theorem State.pairwise_setSlot {R : Slot → Slot → Prop} (hR : ∀ a b, R a b → R b a) {s : State} {d : SlotId} {c : Slot}
    (h : ∀ m e, m ≠ e → R (s.slot m) (s.slot e)) (hc : ∀ m, m ≠ d → R c (s.slot m)) (m e : SlotId) (hme : m ≠ e) :
    R ((s.setSlot d c).slot m) ((s.setSlot d c).slot e) := by
  rw [State.setSlot_slot, State.setSlot_slot]
  by_cases hm : d = m
  · subst m
    rw [if_pos rfl, if_neg hme]
    exact hc e hme.symm
  · by_cases he : d = e
    · subst e
      rw [if_neg hm, if_pos rfl]
      exact hR _ _ (hc m hme)
    · rw [if_neg hm, if_neg he]
      exact h m e hme

theorem PinRoles.congr {s t : State} (hr : SameRegs t s) (h : PinRoles s) : PinRoles t := by
  obtain ⟨h1, h2, h3, h4, h5, h6⟩ := h
  constructor <;> simpa only [hr.slot, hr.bus]

/-- SETUP with free pins: no slot is registered, so the bus meets mode-select pins only (R112). -/
theorem PinRoles.setBus {s : State} {clk sdo sdi : PinId} (h : PinRoles s) (hnull : ∀ d, (s.slot d).kind = .null)
    (hfree : busPinsFree s clk sdo sdi) (hw : Bool) (iface : BitVec 8) (c : CState) :
    PinRoles (s.setBus clk sdo sdi hw iface c) := by
  obtain ⟨hco, hci, hoi, hdc⟩ := hfree
  exact {
    bus := ⟨hco, hci, hoi⟩
    busCs := fun d hk => absurd (hnull d) hk
    busDc := fun d => (hdc d).imp apart.symm (.imp apart.symm apart.symm)
    csCs := h.csCs
    csDc := h.csDc
    dcDc := h.dcDc }

/-- Writing a slot with its own DC, the chip-select pin of a registered one being free (R118). -/
theorem PinRoles.setSlot_cs {s : State} {d : SlotId} {c : Slot} (h : PinRoles s) (hdc : c.dc = (s.slot d).dc)
    (hcs : c.kind ≠ .null → offBusAndCs s c.cs ∧ ∀ m, apart c.cs (s.slot m).dc) : PinRoles (s.setSlot d c) := by
  constructor
  case bus => exact h.bus
  case busCs =>
    intro m
    rw [State.setSlot_slot]
    split
    · intro hk
      obtain ⟨⟨hclk, hsdo, hsdi, -⟩, -⟩ := hcs hk
      exact ⟨hclk, hsdo, hsdi⟩
    · exact h.busCs m
  case busDc => simpa only [State.setSlot_dc hdc, State.setSlot_bus] using h.busDc
  case csCs =>
    refine State.pairwise_setSlot (R := fun a b => a.kind ≠ .null → b.kind ≠ .null → apart a.cs b.cs)
      (fun a b hab hb ha => (hab ha hb).symm) h.csCs fun m _ hk hm => ?_
    obtain ⟨⟨-, -, -, hcs⟩, -⟩ := hcs hk
    exact hcs m hm
  case csDc =>
    intro m e
    rw [State.setSlot_dc hdc, State.setSlot_slot]
    split
    · exact fun hk => (hcs hk).2 e
    · exact h.csDc m e
  case dcDc => simpa only [State.setSlot_dc hdc] using h.dcDc

/-- Writing a slot with another mode-select pin, which is free (R127). -/
theorem PinRoles.setSlot_dc {s : State} {d : SlotId} {dc : PinId} (h : PinRoles s) (hcs : offBusAndCs s dc)
    (hdc : ∀ m, m ≠ d → apart dc (s.slot m).dc) : PinRoles (s.setSlot d { s.slot d with dc := dc }) := by
  obtain ⟨hclk, hsdo, hsdi, hcs⟩ := hcs
  have hkind := State.setSlot_field Slot.kind (s := s) (d := d) (c := { s.slot d with dc := dc }) rfl
  have hpin := State.setSlot_field Slot.cs (s := s) (d := d) (c := { s.slot d with dc := dc }) rfl
  constructor
  case bus => exact h.bus
  case busCs => simpa only [hkind, hpin, State.setSlot_bus] using h.busCs
  case busDc =>
    intro m
    rw [State.setSlot_slot]
    split
    · exact ⟨hclk, hsdo, hsdi⟩
    · exact h.busDc m
  case csCs => simpa only [hkind, hpin] using h.csCs
  case csDc =>
    intro m e
    rw [hkind, hpin, State.setSlot_slot]
    split
    · exact fun hk => (hcs m hk).symm
    · exact h.csDc m e
  case dcDc =>
    exact State.pairwise_setSlot (R := fun a b => apart a.dc b.dc) (fun _ _ => apart.symm) h.dcDc hdc

/-- Every effect keeps the pin roles apart. -/
theorem Effect.keeps_pinRoles {s v : State} {i : Instr} (he : Effect s i v) (hd : DelegateInv s) (h : PinRoles s) :
    PinRoles v := by
  cases he with
  | setup hc _ hfree => exact h.setBus (hd.null hc) hfree _ _ _
  | register _ _ hcs hdc => exact h.setSlot_cs rfl fun _ => ⟨hcs, hdc⟩
  | unregister => exact h.setSlot_cs rfl (absurd rfl)
  | setDc hcs hdc => exact h.setSlot_dc hcs hdc
  | _ => exact ⟨h.bus, h.busCs, h.busDc, h.csCs, h.csDc, h.dcDc⟩

/-- Settles O55: kept together with R37, which leaves no slot registered before SETUP. -/
theorem stepKeepsPinRolesApart : Obligations.StepKeepsPinRolesApart := by
  unfold Obligations.StepKeepsPinRolesApart
  intro s t hd hp h
  have hboth : DelegateInv t ∧ PinRoles t :=
    step_keeps (P := fun s => DelegateInv s ∧ PinRoles s) (fun hr h => ⟨h.1.congr hr, h.2.congr hr⟩)
      ⟨delegateInv_reset, pinRoles_reset⟩
      (fun _ he h => ⟨he.keeps_delegateInv h.1, he.keeps_pinRoles h.1 h.2⟩) ⟨hd, hp⟩ h
  exact hboth.2

end Sys2Proof.Machine

/-!
The family of 41_bitbang.md. `engine_spec` says once what a transfer unit records, samples and returns; the transfer
commands are read off from it. The trace of a unit is then taken apart bit by bit: what a bit records before its sample
(`bitHead`) and after it (`bitTail`).
-/

namespace Sys2Proof.Machine

/-! ### The transfer commands -/

/-- TRANSFER on a NULL slot: report code 5 and RESULT 0 (R150, R174). -/
theorem execTransfer_null {d : SlotId} {s : State} (v : XferWord) (n : Nat) (h : (s.slot d).kind = .null) :
    execTransfer d v n s = complete s.nullTransfer := by
  unfold execTransfer; rw [h]

/-- An engine run, some value put in RESULT, and `pc` moved on: all that a transfer command leaves (R143). -/
theorem engine_unitDone (s : State) (d : SlotId) (v : XferWord) (n : Nat) (r : XferWord) :
    UnitDone s d v n ((engine (s.slot d).timed d v n s).2.setResult r).advance := by
  obtain ⟨hrec, hsam, -⟩ := engine_spec (s.slot d).timed d v n s
  obtain ⟨hpc, hcs, hst, -, how, hbus, hsl, hdir, hbuf, hfl, hpar, henv⟩ := hsam.rest
  refine ⟨hrec.right rfl rfl rfl, ?_⟩
  rw [State.ext_iff]
  simp [hpc, hcs, hst, how, hbus, hsl, hdir, hbuf, hfl, hpar, henv]

theorem lowByte_getLsbD (v : XferWord) (k : Nat) : (lowByte v).getLsbD k = (decide (k < 8) && v.getLsbD k) := by
  simp only [lowByte, BitVec.getLsbD_setWidth]
  by_cases hk : k < 8
  · have : k < 16 := by omega
    simp [hk, this]
  · simp [hk]

/-- A unit of 8 bits receives no more than a byte (R148, R155). -/
theorem lowByte_engine (timed : Bool) (d : SlotId) (v : XferWord) (s : State) :
    lowByte (engine timed d v 8 s).1 = (engine timed d v 8 s).1 := by
  apply BitVec.eq_of_getLsbD_eq
  intro k _
  rw [lowByte_getLsbD, engine_value timed d v (by omega), receivedBit, ← Bool.and_assoc, Bool.and_self]

/-- TRANSFER8 is TRANSFER of the 8 bits of its byte (R155). -/
theorem execTransfer8_eq (d : SlotId) (b : Byte) (s : State) :
    execTransfer8 d b s = execTransfer d (b.setWidth 16) 8 s := by
  by_cases hk : (s.slot d).kind = .null
  · rw [execTransfer_null _ _ hk, execTransfer8, hk]
  · rw [execTransfer_registered _ _ hk, execTransfer8_registered _ hk, storeResult, storeResult, lowByte_engine, id]

/-- WRITE is TRANSFER with RESULT put back (R152): the engine does not touch RESULT. -/
theorem execWrite_eq (d : SlotId) (v : XferWord) (n : Nat) (s : State) :
    execWrite d v n s = andThen (execTransfer d v n s) (fun t => .next { t with result := s.result }) := by
  unfold execWrite
  by_cases hk : (s.slot d).kind = .null
  · rw [writeStep_null v n hk, execTransfer_null v n hk]; rfl
  · rw [writeStep_registered v n hk, execTransfer_registered v n hk]
    split
    · rw [← (engine_sameRegs (s.slot d).timed d v n s).result]; rfl
    · rfl

/-- Settles O29, by `execWrite_eq` and `execTransfer8_eq`. -/
theorem writeAndTransferEightAreTransfer : Obligations.WriteAndTransferEightAreTransfer := by
  unfold Obligations.WriteAndTransferEightAreTransfer
  exact fun s d v n b => ⟨execWrite_eq d v n s, execTransfer8_eq d b s⟩

/-- Settles O26: the engine of the slot's kind, read off from `engine_unitDone` and `engine_value`. -/
theorem transferRunsItsUnit : Obligations.TransferRunsItsUnit := by
  unfold Obligations.TransferRunsItsUnit
  intro s d v n _ hn
  refine ⟨fun hk => execTransfer_null v n hk, fun hk ho => ?_, fun hk ho => ?_⟩
  · refine ⟨_, (execTransfer_registered v n hk).trans (if_pos ho), engine_unitDone s d v n _, ?_⟩
    exact engine_value _ d v hn s
  · exact (execTransfer_registered v n hk).trans (if_neg ho)

/-- Settles O27: TRANSFER's three outcomes, with RESULT put back. -/
theorem writeRunsItsUnit : Obligations.WriteRunsItsUnit := by
  unfold Obligations.WriteRunsItsUnit
  intro s d v n h1 hn
  obtain ⟨hnull, howner, hother⟩ := transferRunsItsUnit s d v n h1 hn
  simp only [exec] at hnull howner hother ⊢
  rw [execWrite_eq]
  refine ⟨fun hk => by rw [hnull hk]; rfl, fun hk ho => ?_, fun hk ho => by rw [hother hk ho]; rfl⟩
  obtain ⟨t, ht, hdone, -⟩ := howner hk ho
  refine ⟨{ t with result := s.result }, by rw [ht]; rfl, ⟨hdone.records.right rfl rfl rfl, ?_⟩, rfl⟩
  conv_lhs => rw [hdone.frame]

/-- Settles O28: TRANSFER of 8 bits. -/
theorem transferEightRunsItsUnit : Obligations.TransferEightRunsItsUnit := by
  unfold Obligations.TransferEightRunsItsUnit
  intro s d b
  have hxfer := transferRunsItsUnit s d (b.setWidth 16) 8 (by omega) (by omega)
  simp only [exec] at hxfer ⊢
  rwa [execTransfer8_eq]

/-- Settles O35: the bit stored at an index is the one sampled at the step that sent that index (R67, R148). -/
theorem loopbackReturnsTheValue : Obligations.LoopbackReturnsTheValue := by
  unfold Obligations.LoopbackReturnsTheValue
  intro s d v n h1 hn hk ho _ hsdi hloop
  obtain ⟨-, howner, -⟩ := transferRunsItsUnit s d v n h1 hn
  obtain ⟨t, ht, -, hval⟩ := howner hk ho
  refine ⟨t, ht, fun k => ?_⟩
  rw [hval, receivedBit]
  by_cases hkn : k < n
  · rw [State.sample, if_neg hsdi, hloop _ (bitIndex_lt hkn), bitIndex_bitIndex hkn]
  · simp [hkn]

/-! ### The events of a bit before and after its sample -/

/-- What a bit records before its sample (R144, R145). -/
def bitHead (timed : Bool) (c : Slot) (b : Bus) (v : XferWord) (k : Nat) : List Event :=
  match c.cpha with
  | .leading => writeEvent b.sdo (v.getLsbD k) ++ timedEvent timed .half ++ writeEvent b.clk (!c.cpol)
  | .trailing =>
    timedEvent timed .half ++ writeEvent b.clk (!c.cpol) ++ writeEvent b.sdo (v.getLsbD k) ++ timedEvent timed .half

/-- What a bit records after its sample (R144, R145). -/
def bitTail (timed : Bool) (c : Slot) (b : Bus) : List Event :=
  match c.cpha with
  | .leading => timedEvent timed .half ++ writeEvent b.clk c.cpol
  | .trailing => writeEvent b.clk c.cpol

section
variable {timed : Bool} {c : Slot} {b : Bus} {v : XferWord} {k : Nat} {a : Level}

theorem bitEvents_eq : bitEvents timed c b v k a = bitHead timed c b v k ++ readEvent b.sdi a ++ bitTail timed c b := by
  unfold bitEvents bitHead bitTail
  cases c.cpha <;> simp only [List.append_assoc]

/-- In both phases a bit drives data-out once and the clock to each level once, samples once and waits twice (R143). -/
theorem countP_bitEvents (p : Event → Bool) :
    (bitEvents timed c b v k a).countP p =
      (writeEvent b.sdo (v.getLsbD k)).countP p + (writeEvent b.clk (!c.cpol)).countP p +
        (readEvent b.sdi a).countP p + (writeEvent b.clk c.cpol).countP p + 2 * (timedEvent timed .half).countP p := by
  unfold bitEvents
  cases c.cpha <;> simp only [List.countP_append] <;> omega

/-- The clock stands at the active level when a bit is sampled (R144, R145). -/
theorem levelAfter_bitHead_clk (hclk : b.clk ≠ noPin) (hne : b.clk ≠ b.sdo) (o : Option Level) :
    levelAfter b.clk (bitHead timed c b v k) o = some (!c.cpol) := by
  unfold bitHead
  cases c.cpha <;> simp [levelAfter_append, hclk, hne.symm]

/-- A real data-out holds the bit sent when that bit is sampled (R144, R145). -/
theorem levelAfter_bitHead_sdo (hsdo : b.sdo ≠ noPin) (hne : b.clk ≠ b.sdo) (o : Option Level) :
    levelAfter b.sdo (bitHead timed c b v k) o = some (v.getLsbD k) := by
  unfold bitHead
  cases c.cpha <;> simp [levelAfter_append, hsdo, hne]

/-- After its sample a bit only returns the clock to idle (R146). -/
theorem levelAfter_bitTail (q : PinId) (o : Option Level) :
    levelAfter q (bitTail timed c b) o = if b.clk = q ∧ b.clk ≠ noPin then some c.cpol else o := by
  unfold bitTail
  cases c.cpha <;> simp [levelAfter_append]

theorem levelAfter_bitEvents_clk (hclk : b.clk ≠ noPin) (o : Option Level) :
    levelAfter b.clk (bitEvents timed c b v k a) o = some c.cpol := by
  rw [bitEvents_eq, levelAfter_append, levelAfter_bitTail, if_pos ⟨rfl, hclk⟩]

theorem levelAfter_bitEvents_sdo (hsdo : b.sdo ≠ noPin) (hne : b.clk ≠ b.sdo) (o : Option Level) :
    levelAfter b.sdo (bitEvents timed c b v k a) o = some (v.getLsbD k) := by
  rw [bitEvents_eq, levelAfter_append, levelAfter_append, levelAfter_bitHead_sdo hsdo hne,
    levelAfter_readEvent, levelAfter_bitTail, if_neg fun h => hne h.1]

end

/-! ### The bits of a unit -/

/-- The events of a unit of `n` bits before its step `m`: the clock's first write and `m` bits (R143). -/
def unitStart (timed : Bool) (c : Slot) (b : Bus) (v : XferWord) (n : Nat) (ans : Nat → Level) (m : Nat) :
    List Event :=
  writeEvent b.clk c.cpol ++
    (List.range m).flatMap fun i => bitEvents timed c b v (bitIndex c.order n i) (ans i)

section
variable {timed : Bool} {c : Slot} {b : Bus} {v : XferWord} {n : Nat} {ans : Nat → Level}

theorem unitEvents_eq : unitEvents timed c b v n ans =
    unitStart timed c b v n ans n ++ timedEvent timed .alive := rfl

theorem unitStart_zero : unitStart timed c b v n ans 0 = writeEvent b.clk c.cpol := List.append_nil _

theorem unitStart_succ (m : Nat) : unitStart timed c b v n ans (m + 1) =
    unitStart timed c b v n ans m ++ bitEvents timed c b v (bitIndex c.order n m) (ans m) := by
  simp [unitStart, List.range_succ]

/-- The level a unit leaves on a pin is the one its last bit leaves. -/
theorem levelAfter_unitEvents (hn : 1 ≤ n) (q : PinId) (o : Option Level) :
    ∃ o', levelAfter q (unitEvents timed c b v n ans) o =
      levelAfter q (bitEvents timed c b v (bitIndex c.order n (n - 1)) (ans (n - 1))) o' := by
  obtain ⟨m, rfl⟩ : ∃ m, n = m + 1 := ⟨n - 1, by omega⟩
  refine ⟨levelAfter q (unitStart timed c b v (m + 1) ans m) o, ?_⟩
  rw [unitEvents_eq, unitStart_succ, levelAfter_append, levelAfter_append, Nat.add_sub_cancel,
    levelAfter_timedEvent_alive]

theorem levelAfter_unitEvents_clk (hn : 1 ≤ n) (hclk : b.clk ≠ noPin) (o : Option Level) :
    levelAfter b.clk (unitEvents timed c b v n ans) o = some c.cpol := by
  obtain ⟨o', h⟩ := levelAfter_unitEvents hn b.clk o
  rw [h, levelAfter_bitEvents_clk hclk]

theorem levelAfter_unitEvents_sdo (hn : 1 ≤ n) (hsdo : b.sdo ≠ noPin) (hne : b.clk ≠ b.sdo) (o : Option Level) :
    levelAfter b.sdo (unitEvents timed c b v n ans) o = some (v.getLsbD (bitIndex c.order n (n - 1))) := by
  obtain ⟨o', h⟩ := levelAfter_unitEvents hn b.sdo o
  rw [h, levelAfter_bitEvents_sdo hsdo hne]

/-- Bits that each have `r` events of a sort add `r` times their number to the clock's first write. -/
theorem countP_unitStart {p : Event → Bool} {r : Nat} (hr : ∀ k a, (bitEvents timed c b v k a).countP p = r)
    (m : Nat) : (unitStart timed c b v n ans m).countP p = (writeEvent b.clk c.cpol).countP p + m * r := by
  induction m with
  | zero => rw [unitStart_zero, Nat.zero_mul, Nat.add_zero]
  | succ m ih => rw [unitStart_succ, List.countP_append, ih, hr, Nat.succ_mul, Nat.add_assoc]

end

/-- Settles O34: the last bit leaves its index on SDO and the clock idle. -/
theorem unitLeavesClockIdleAndLastBit : Obligations.UnitLeavesClockIdleAndLastBit := by
  unfold Obligations.UnitLeavesClockIdleAndLastBit
  intro s t d v n h1 hn hk ho hclk hne ht
  obtain ⟨-, howner, -⟩ := transferRunsItsUnit s d v n h1 hn
  obtain ⟨u, hu, hdone, -⟩ := howner hk ho
  obtain rfl : t = u := by injection ht.symm.trans hu
  refine ⟨by rw [hdone.records.level, levelAfter_unitEvents_clk h1 hclk], fun hsdo => ?_⟩
  rw [hdone.records.level, levelAfter_unitEvents_sdo h1 hsdo hne]
  cases (s.slot d).order with
  | msbFirst => rw [bitIndex, Nat.sub_self]
  | lsbFirst => rfl

/-! ### Counting the events of a unit -/

@[simp] theorem countP_writeEvent (f : Event → Bool) (p : PinId) (b : Level) :
    (writeEvent p b).countP f = if p ≠ noPin ∧ f (.write p b) = true then 1 else 0 := by
  unfold writeEvent
  by_cases hp : p = noPin <;> simp [hp, List.countP_cons]

@[simp] theorem countP_readEvent (f : Event → Bool) (p : PinId) (b : Level) :
    (readEvent p b).countP f = if p ≠ noPin ∧ f (.read p b) = true then 1 else 0 := by
  unfold readEvent
  by_cases hp : p = noPin <;> simp [hp, List.countP_cons]

@[simp] theorem countP_timedEvent (f : Event → Bool) (timed : Bool) (e : Event) :
    (timedEvent timed e).countP f = if timed = true ∧ f e = true then 1 else 0 := by
  cases timed <;> simp [timedEvent, List.countP_cons]

/-- What a unit counts: its clock write, its bits, its notification. -/
theorem countP_unitEvents {timed : Bool} {c : Slot} {b : Bus} {v : XferWord} {p : Event → Bool} {r : Nat}
    (hr : ∀ k a, (bitEvents timed c b v k a).countP p = r) (n : Nat) (ans : Nat → Level) :
    (unitEvents timed c b v n ans).countP p =
      (writeEvent b.clk c.cpol).countP p + n * r + (timedEvent timed .alive).countP p := by
  rw [unitEvents_eq, List.countP_append, countP_unitStart hr]

section
variable {c : Slot} {b : Bus} (v : XferWord) (n : Nat) (ans : Nat → Level) (hclk : b.clk ≠ noPin)
include hclk

/-- A bit has two clock writes and two waits, and an event of SDO and one of SDI if these are real pins (R149). -/
theorem length_unitEvents : (unitEvents true c b v n ans).length =
    n * ((if b.sdo = noPin then 0 else 1) + (if b.sdi = noPin then 0 else 1) + 4) + 2 := by
  have hbit : ∀ k a, (bitEvents true c b v k a).countP (fun _ => true) =
      (if b.sdo = noPin then 0 else 1) + (if b.sdi = noPin then 0 else 1) + 4 := by
    intro k a
    rw [countP_bitEvents]
    simp only [countP_writeEvent, countP_readEvent, countP_timedEvent, hclk, ne_eq, not_false_eq_true, and_self,
      and_true, ite_not, ↓reduceIte]
    omega
  rw [← List.countP_true, countP_unitEvents hbit, Nat.add_right_comm, Nat.add_comm _ (n * _)]
  simp [hclk]

/-- A clock pin of its own is driven once to each level per bit, and to idle once more before the first (R143). -/
theorem count_write_clk_unitEvents (timed : Bool) (hne : b.clk ≠ b.sdo) (l : Level) :
    (unitEvents timed c b v n ans).count (.write b.clk l) = if l = c.cpol then n + 1 else n := by
  have hbit : ∀ k a, (bitEvents timed c b v k a).countP (· == .write b.clk l) = 1 := by
    intro k a
    rw [countP_bitEvents]
    rcases Bool.eq_or_eq_not l c.cpol with rfl | rfl <;> simp [hclk, hne.symm]
  rw [List.count_eq_countP, countP_unitEvents hbit]
  rcases Bool.eq_or_eq_not l c.cpol with rfl | rfl <;> simp [hclk, Nat.add_comm]

end

theorem count_half_unitEvents (c : Slot) (b : Bus) (v : XferWord) (n : Nat) (ans : Nat → Level) :
    (unitEvents true c b v n ans).count .half = 2 * n := by
  have hbit : ∀ k a, (bitEvents true c b v k a).countP (· == .half) = 2 := by
    intro k a
    rw [countP_bitEvents]
    simp
  rw [List.count_eq_countP, countP_unitEvents hbit, Nat.mul_comm]
  simp

theorem count_alive_unitEvents (c : Slot) (b : Bus) (v : XferWord) (n : Nat) (ans : Nat → Level) :
    (unitEvents true c b v n ans).count .alive = 1 := by
  have hbit : ∀ k a, (bitEvents true c b v k a).countP (· == .alive) = 0 := by
    intro k a
    rw [countP_bitEvents]
    simp
  rw [List.count_eq_countP, countP_unitEvents hbit]
  simp

/-- Settles O32: the counts of the events of a unit; with SDI = NONE every sample is NOOP_READ_VALUE (R66). -/
theorem unitEventCounts : Obligations.UnitEventCounts := by
  unfold Obligations.UnitEventCounts
  intro s d v n hn hclk hne
  have hlen := length_unitEvents (c := s.slot d) v n s.sample hclk
  refine ⟨_, (engine_spec true d v n s).1.trace, ?_, ?_, ?_, ?_, ?_, ?_, count_half_unitEvents _ _ _ _ _,
    count_alive_unitEvents _ _ _ _ _, fun hsdi k => ?_⟩
  · intro hsdo hsdi; rw [hlen, if_neg hsdo, if_neg hsdi]; omega
  · intro hsdo hsdi; rw [hlen, if_pos hsdo, if_neg hsdi]; omega
  · intro hsdo hsdi; rw [hlen, if_neg hsdo, if_pos hsdi]; omega
  · intro hsdo hsdi; rw [hlen, if_pos hsdo, if_pos hsdi]; omega
  · rw [count_write_clk_unitEvents v n _ hclk true hne, if_neg (by simp)]
  · rw [count_write_clk_unitEvents v n _ hclk true hne, if_pos rfl]
  · rw [bbEngine, engine_value true d v hn, receivedBit, State.sample, if_pos hsdi]

/-! ### Samples within a list of events -/

/-- Every sample of pin `p` among the events `es` meets `Q`, a property of the events before it and of its value. -/
def SamplesMeet (p : PinId) (Q : List Event → Level → Prop) (es : List Event) : Prop :=
  ∀ pre a post, es = pre ++ .read p a :: post → Q pre a

section
variable {p : PinId} {Q : List Event → Level → Prop} {es fs : List Event}

theorem SamplesMeet.of_no_read (h : ∀ a, .read p a ∉ es) : SamplesMeet p Q es := by
  rintro pre a post rfl
  exact absurd (by simp) (h a)

theorem SamplesMeet.read {a : Level} (h : Q [] a) : SamplesMeet p Q [.read p a] := by
  intro pre a' post he
  cases pre with
  | nil => cases he; exact h
  | cons e pre => simp at he

/-- A sample in a list of two parts lies in the first part, or in the second with the first before it. -/
theorem SamplesMeet.append (h : SamplesMeet p Q es) (g : SamplesMeet p (fun pre => Q (es ++ pre)) fs) :
    SamplesMeet p Q (es ++ fs) := by
  intro pre a post he
  rcases List.append_eq_append_iff.1 he with ⟨mid, rfl, hfs⟩ | ⟨mid, hes, hmid⟩
  · exact g mid a post hfs
  · cases mid with
    | nil =>
      rw [List.append_nil] at hes
      simpa only [hes, List.append_nil] using g [] a post hmid.symm
    | cons e mid =>
      injection hmid with h1 _
      exact h pre a mid (by rw [hes, ← h1])

end

/-! ### Every sample of a unit -/

/-- What R143 to R146 ask of a sample `a` of a unit of `n` bits of `v` from `s`, the events `pre` of the unit standing
before it: its number, its value, the clock and data-out. -/
structure StableSample (s : State) (d : SlotId) (v : XferWord) (n : Nat) (pre : List Event) (a : Level) : Prop where
  number : pre.countP Event.isRead < n
  value : a = s.sample (pre.countP Event.isRead)
  clk : levelAfter s.bus.clk pre (s.level s.bus.clk) = some (!(s.slot d).cpol)
  sdo : s.bus.sdo ≠ noPin → levelAfter s.bus.sdo pre (s.level s.bus.sdo) =
    some (v.getLsbD (bitIndex (s.slot d).order n (pre.countP Event.isRead)))

section
variable {timed : Bool} {c : Slot} {b : Bus}

theorem read_not_mem_writeEvent {q p : PinId} {l : Level} (a : Level) : .read q a ∉ writeEvent p l := by
  unfold writeEvent; split <;> simp

theorem read_not_mem_bitHead {v : XferWord} {k : Nat} {p : PinId} (a : Level) :
    .read p a ∉ bitHead timed c b v k := by
  unfold bitHead
  cases c.cpha <;> cases timed <;> simp [read_not_mem_writeEvent, timedEvent]

theorem read_not_mem_bitTail {p : PinId} (a : Level) : .read p a ∉ bitTail timed c b := by
  unfold bitTail
  cases c.cpha <;> cases timed <;> simp [read_not_mem_writeEvent, timedEvent]

/-- No event of a bit before its sample is a sample (R144, R145). -/
theorem countP_isRead_bitHead {v : XferWord} {k : Nat} : (bitHead timed c b v k).countP Event.isRead = 0 := by
  unfold bitHead
  cases c.cpha <;> simp [Event.isRead]

/-- A real data-in is sampled once per bit, so `m` times before the sample of step `m` (R143). -/
theorem countP_isRead_unitStart_bitHead {v : XferWord} (hsdi : b.sdi ≠ noPin) (n : Nat) (ans : Nat → Level)
    (m k : Nat) : (unitStart timed c b v n ans m ++ bitHead timed c b v k).countP Event.isRead = m := by
  have hbit : ∀ k a, (bitEvents timed c b v k a).countP Event.isRead = 1 := by
    intro k a
    rw [countP_bitEvents]
    simp [Event.isRead, hsdi]
  rw [List.countP_append, countP_isRead_bitHead, countP_unitStart hbit]
  simp [Event.isRead]

end

section
variable {s : State} (timed : Bool) (d : SlotId) (v : XferWord) (n : Nat) (hclk : s.bus.clk ≠ noPin)
  (hsdi : s.bus.sdi ≠ noPin) (hne : s.bus.clk ≠ s.bus.sdo)
include hclk hsdi hne

/-- The sample of step `m` is stable: the head of its own bit set the lines. -/
theorem stableSample_bit {m : Nat} (hm : m < n) :
    StableSample s d v n (unitStart timed (s.slot d) s.bus v n s.sample m ++
      bitHead timed (s.slot d) s.bus v (bitIndex (s.slot d).order n m)) (s.sample m) := by
  have hcount := countP_isRead_unitStart_bitHead (timed := timed) (c := s.slot d) (v := v) hsdi n s.sample m
    (bitIndex (s.slot d).order n m)
  refine ⟨by rwa [hcount], by rw [hcount], ?_, fun hsdo => ?_⟩
  · rw [levelAfter_append, levelAfter_bitHead_clk hclk hne]
  · rw [hcount, levelAfter_append, levelAfter_bitHead_sdo hsdo hne]

/-- Every sample before step `m` of a unit is stable. -/
theorem unitStart_samples {m : Nat} (hm : m ≤ n) :
    SamplesMeet s.bus.sdi (StableSample s d v n) (unitStart timed (s.slot d) s.bus v n s.sample m) := by
  induction m with
  | zero => rw [unitStart_zero]; exact .of_no_read read_not_mem_writeEvent
  | succ m ih =>
    rw [unitStart_succ, bitEvents_eq, readEvent, if_neg hsdi, ← List.append_assoc, ← List.append_assoc]
    refine .append (.append (.append (ih (by omega)) ?_) ?_) ?_
    · exact .of_no_read read_not_mem_bitHead
    · refine .read ?_
      rw [List.append_nil]
      exact stableSample_bit timed d v n hclk hsdi hne hm
    · exact .of_no_read read_not_mem_bitTail

/-- Every sample of a unit is stable. -/
theorem unitEvents_samples :
    SamplesMeet s.bus.sdi (StableSample s d v n) (unitEvents timed (s.slot d) s.bus v n s.sample) := by
  rw [unitEvents_eq]
  refine .append (unitStart_samples timed d v n hclk hsdi hne le_rfl) (.of_no_read fun a => ?_)
  cases timed <;> simp [timedEvent]

end

/-- Settles O33: both engines are `engine`, and every sample of its unit is stable. -/
theorem samplesWhileClockActiveAndDataStable : Obligations.SamplesWhileClockActiveAndDataStable := by
  unfold Obligations.SamplesWhileClockActiveAndDataStable
  intro s t d v n pre post a hclk hsdi hne ht htrace
  obtain ⟨timed, rfl⟩ : ∃ timed, t = (engine timed d v n s).2 := ht.elim (⟨true, ·⟩) (⟨false, ·⟩)
  rw [(engine_spec timed d v n s).1.trace] at htrace
  have hunit := List.append_cancel_left htrace
  obtain ⟨hnum, hval, hlclk, hlsdo⟩ := unitEvents_samples timed d v n hclk hsdi hne pre a post hunit
  exact ⟨hnum, hval, hlclk, hlsdo⟩

end Sys2Proof.Machine

/-!
The family of 42_delegates_transactions.md. BEGIN and END are read off from the bracket's steps; the hardware-backed
engine is set against the bit-bang one through `engine_spec` and the levels both drive. The select lines are followed
operation by operation: `RestBut` says which of them are at rest, but for those of a slot a command is at work on.
-/

namespace Sys2Proof.Machine

/-! ### The bracket -/

/-- The bracket's start on a registered slot and a bus in use faults before it did anything (R179). -/
theorem beginStep_held {d o : SlotId} {s : State} (hk : (s.slot d).kind ≠ .null) (ho : s.owner = some o) :
    beginStep d s = raise (if o = d then .nestedBegin else .busBusy) s := by
  rw [beginStep_registered hk, takeBus, ho]
  exact (apply_ite (raise · s) _ _ _).symm

theorem execBegin_held {d o : SlotId} {s : State} (hk : (s.slot d).kind ≠ .null) (ho : s.owner = some o) :
    execBegin d s = faultAt (if o = d then .nestedBegin else .busBusy) s := by
  rw [execBegin, beginStep_held hk ho, andThen_raise, raise_eq_faultAt]

/-- BEGIN on a free bus: chip-select is asserted, the slot is the owner, and nothing else changes (R180). -/
theorem execBegin_free {d : SlotId} {s : State} (hk : (s.slot d).kind ≠ .null) (ho : s.owner = none) :
    ∃ t, execBegin d s = .next t ∧ Records s t (writeEvent (s.slot d).cs s.params.csActive) ∧
      t = { s with pc := s.pc + 1, owner := some d, trace := t.trace, lvl := t.lvl } := by
  obtain ⟨u, hu, hrec, hsam⟩ := beginStep_free hk ho
  refine ⟨u.advance, by rw [execBegin, hu]; rfl, hrec.right rfl rfl rfl, ?_⟩
  rw [State.ext_iff]
  simp [hsam.rest, State.envAfterSamples]

/-- Settles O23: a NULL slot, a free bus, the slot's own bus, another's. -/
theorem beginTakesTheFreeBus : Obligations.BeginTakesTheFreeBus := by
  unfold Obligations.BeginTakesTheFreeBus
  intro s d
  refine ⟨fun hnull => ?_, execBegin_free, fun hk ho => ?_, fun o hk ho hne => ?_⟩
  · rw [exec, execBegin, beginStep_null hnull]; rfl
  · rw [exec, execBegin_held hk ho, if_pos rfl]
  · rw [exec, execBegin_held hk ho, if_neg hne]

/-- Settles O24, from the bracket's end on each kind of slot. -/
theorem endReleasesOnlyItsOwnBus : Obligations.EndReleasesOnlyItsOwnBus := by
  unfold Obligations.EndReleasesOnlyItsOwnBus
  intro s d
  refine ⟨fun hnull => ?_, fun hk => ⟨(s.releaseBus d).advance, ?_, ?_, ?_⟩⟩
  · rw [exec, execEnd, endStep_null hnull]; rfl
  · rw [exec, execEnd, endStep_registered hk]; rfl
  · exact (s.releaseBus_records d).right rfl rfl rfl
  · rw [State.releaseBus_eq, State.ext_iff]; simp

/-- Settles O25: BEGIN's clause on a free bus, and END's on the slot that then holds it. -/
theorem beginThenEndChangesChipSelectOnly : Obligations.BeginThenEndChangesChipSelectOnly := by
  unfold Obligations.BeginThenEndChangesChipSelectOnly
  intro s d hk ho
  obtain ⟨-, hfree, -⟩ := beginTakesTheFreeBus s d
  obtain ⟨u, hbegin, hru, hu⟩ := hfree hk ho
  have hslot : u.slot d = s.slot d := by rw [hu]; rfl
  have hparams : u.params = s.params := by rw [hu]
  have howner : u.owner = some d := by rw [hu]
  obtain ⟨t, hend, hrt, ht⟩ := (endReleasesOnlyItsOwnBus u d).2 (by rwa [hslot])
  rw [hslot, hparams] at hrt
  have hlevel (q : PinId) : t.level q =
      if (s.slot d).cs = q ∧ (s.slot d).cs ≠ noPin then some s.csIdle else s.level q := by
    rw [hrt.level, hru.level, levelAfter_writeEvent, levelAfter_writeEvent]
    split <;> rfl
  refine ⟨u, t, hbegin, howner, hru.trace, hend, hrt.trace, ?_, fun q hq => ?_, fun hcs => ?_⟩
  · rw [howner, if_pos rfl] at ht
    rw [ht, hu, ho]
  · rw [hlevel, if_neg fun h => hq h.1.symm]
  · rw [hlevel, if_pos ⟨rfl, hcs⟩]

/-- Settles O39: the range is in the data buffer, and the frame's bracket faults. -/
theorem frameInsideTransactionFaults : Obligations.FrameInsideTransactionFaults := by
  unfold Obligations.FrameInsideTransactionFaults
  intro s d o cp cmd len addr hlen hk ho
  have hrange : ¬ rangeLeavesDbuf len addr = true := by rw [rangeLeavesDbuf_iff]; omega
  rw [exec, execWriteCmdData, if_neg hrange, sendFrame, beginStep_held hk ho]
  rfl

/-! ### The engine without its timing -/

@[simp] theorem filter_writeEvent (p : PinId) (b : Level) :
    (writeEvent p b).filter (fun e => !e.isTiming) = writeEvent p b := by
  unfold writeEvent; split <;> rfl

@[simp] theorem filter_readEvent (p : PinId) (b : Level) :
    (readEvent p b).filter (fun e => !e.isTiming) = readEvent p b := by
  unfold readEvent; split <;> rfl

theorem filter_timedEvent {e : Event} (h : e.isTiming = true) :
    (timedEvent true e).filter (fun e => !e.isTiming) = timedEvent false e := by
  simp [timedEvent, h]

/-- Without waits and notification a unit's events are those of the engine that records none (R172). -/
theorem filter_unitEvents (c : Slot) (b : Bus) (v : XferWord) (n : Nat) (ans : Nat → Level) :
    (unitEvents true c b v n ans).filter (fun e => !e.isTiming) = unitEvents false c b v n ans := by
  have hbit (k : Nat) (a : Level) :
      (bitEvents true c b v k a).filter (fun e => !e.isTiming) = bitEvents false c b v k a := by
    unfold bitEvents
    cases c.cpha <;> simp [filter_timedEvent (e := .half) rfl]
  simp [unitEvents, List.filter_flatMap, hbit, filter_timedEvent (e := .alive) rfl]

theorem State.pinWrite_lvl (p : PinId) (b : Level) (s : State) :
    (s.pinWrite p b).lvl = if p = noPin then s.lvl else Cells.write p.toNat b s.lvl := by
  unfold State.pinWrite; split <;> rfl

/-- The levels a bit leaves depend on the bus and the levels before it only (R143). -/
theorem engineBit_lvl {timed timed' : Bool} {c : Slot} {v : XferWord} {k : Nat} {acc acc' : XferWord} {s t : State}
    (hb : t.bus = s.bus) (hl : t.lvl = s.lvl) :
    (engineBit timed' c v k acc' t).2.lvl = (engineBit timed c v k acc s).2.lvl := by
  unfold engineBit
  cases c.cpha <;> simp [leadingBit, trailingBit, State.pinWrite_lvl, hb, hl]

theorem engineLoop_lvl (timed timed' : Bool) (c : Slot) (v : XferWord) (n m : Nat) :
    ∀ {acc acc' : XferWord} {s t : State}, t.bus = s.bus → t.lvl = s.lvl →
      (engineLoop timed' c v n m acc' t).2.lvl = (engineLoop timed c v n m acc s).2.lvl := by
  induction m with
  | zero => exact fun _ hl => hl
  | succ m ih =>
    intro acc acc' s t hb hl
    obtain ⟨-, -, hs⟩ := engineBit_spec timed c v (bitIndex c.order n (n - (m + 1))) acc s
    obtain ⟨-, -, ht⟩ := engineBit_spec timed' c v (bitIndex c.order n (n - (m + 1))) acc' t
    exact ih (ht.sameRegs.bus.trans (hb.trans hs.sameRegs.bus.symm)) (engineBit_lvl hb hl)

/-- Both engines leave the same levels (R172). -/
theorem engine_lvl (timed timed' : Bool) (d : SlotId) (v : XferWord) (n : Nat) (s : State) :
    (engine timed' d v n s).2.lvl = (engine timed d v n s).2.lvl := by
  simp only [engine, State.notifyAlive_lvl]
  exact engineLoop_lvl _ _ _ _ _ _ rfl rfl

/-- Settles O31: the value and the events by `engine_spec`, the levels by `engine_lvl`. -/
theorem hardwareEngineDropsOnlyTiming : Obligations.HardwareEngineDropsOnlyTiming := by
  unfold Obligations.HardwareEngineDropsOnlyTiming
  intro s d v n
  obtain ⟨hrb, hsb, -⟩ := engine_spec true d v n s
  obtain ⟨hrh, hsh, -⟩ := engine_spec false d v n s
  refine ⟨engine_value_eq false true d v n s, ?_, _, hrb.trace, ?_⟩
  · rw [State.ext_iff]
    simp only [hwEngine, bbEngine, hsb.rest, hsh.rest, engine_lvl true false, and_self]
  · rw [filter_unitEvents]
    exact hrh.trace

/-! ### A pin apart from those driven -/

theorem levelAfter_writeEvent_apart {p q : PinId} (h : apart p q) (b : Level) (o : Option Level) :
    levelAfter q (writeEvent p b) o = o := by
  rw [levelAfter_writeEvent, if_neg fun hpq => hpq.2 (h hpq.1)]

theorem State.pinWrite_level_apart {p q : PinId} (h : apart p q) (b : Level) (s : State) :
    (s.pinWrite p b).level q = s.level q := by
  rw [s.pinWrite_level, if_neg fun hpq => hpq.2 (h hpq.1)]

theorem State.pinWrite_level_self {p : PinId} (h : p ≠ noPin) (b : Level) (s : State) :
    (s.pinWrite p b).level p = some b := by
  rw [s.pinWrite_level, if_pos ⟨rfl, h⟩]

/-- A transfer unit drives the clock and data-out only (R143). -/
theorem levelAfter_unitEvents_apart {b : Bus} {q : PinId} (hclk : apart b.clk q) (hsdo : apart b.sdo q) (timed : Bool)
    (c : Slot) (v : XferWord) (n : Nat) (ans : Nat → Level) (o : Option Level) :
    levelAfter q (unitEvents timed c b v n ans) o = o := by
  have hbit (k : Nat) (a : Level) (o : Option Level) : levelAfter q (bitEvents timed c b v k a) o = o := by
    unfold bitEvents
    cases c.cpha <;> simp only [levelAfter_append, levelAfter_writeEvent_apart hclk, levelAfter_writeEvent_apart hsdo,
      levelAfter_readEvent, levelAfter_timedEvent_half]
  have hstart (m : Nat) : levelAfter q (unitStart timed c b v n ans m) o = o := by
    induction m with
    | zero => rw [unitStart_zero, levelAfter_writeEvent_apart hclk]
    | succ m ih => rw [unitStart_succ, levelAfter_append, ih, hbit]
  rw [unitEvents_eq, levelAfter_append, hstart, levelAfter_timedEvent_alive]

/-! ### The select lines of a slot -/

/-- R178 for slot `d`: a registered slot's chip-select is active when the slot holds the bus, else deasserted. -/
def CsAtRest (s : State) (d : SlotId) : Prop :=
  (s.slot d).kind ≠ .null → (s.slot d).cs ≠ noPin →
    s.level (s.slot d).cs = some (if s.owner = some d then s.params.csActive else s.csIdle)

/-- R203 for slot `d`: a bound mode-select pin is at the data level. -/
def DcAtRest (s : State) (d : SlotId) : Prop := (s.slot d).dc ≠ noPin → s.level (s.slot d).dc = some s.dcData

theorem CsAtRest.congr {s t : State} {d : SlotId} (h : CsAtRest s d) (hkind : (t.slot d).kind = (s.slot d).kind)
    (hcs : (t.slot d).cs = (s.slot d).cs) (hp : t.params = s.params) (ho : t.owner = some d ↔ s.owner = some d)
    (hl : (s.slot d).kind ≠ .null → t.level (s.slot d).cs = s.level (s.slot d).cs) : CsAtRest t d := by
  unfold CsAtRest
  rw [hkind, hcs]
  intro hk hreal
  rw [hl hk, h hk hreal]
  simp only [ho, hp, State.csIdle]

theorem DcAtRest.congr {s t : State} {d : SlotId} (h : DcAtRest s d) (hdc : (t.slot d).dc = (s.slot d).dc)
    (hp : t.params = s.params) (hl : t.level (s.slot d).dc = s.level (s.slot d).dc) : DcAtRest t d := by
  unfold DcAtRest State.dcData
  rw [hdc, hp, hl]
  exact h

/-! ### The select lines of all slots -/

/-- The pin roles are apart, every chip-select is at rest but that of slot `xc`, and every mode-select pin but that of
slot `xd`. A command moves the lines of the slot it is at work on and brings them to rest before its end. -/
structure RestBut (xc xd : Option SlotId) (s : State) : Prop where
  roles : PinRoles s
  cs : ∀ m, some m ≠ xc → CsAtRest s m
  dc : ∀ m, some m ≠ xd → DcAtRest s m

theorem RestBut.of_inv {s : State} (hp : PinRoles s) (hc : ChipSelectInv s) (hm : ModeSelectInv s) :
    RestBut none none s := ⟨hp, fun m _ => hc m, fun m _ => hm m⟩

theorem RestBut.inv {s : State} (h : RestBut none none s) : ChipSelectInv s ∧ ModeSelectInv s :=
  ⟨fun m => h.cs m nofun, fun m => h.dc m nofun⟩

/-- The pin roles look at the bus and the slots only. -/
theorem PinRoles.of_bus_slots {s t : State} (h : PinRoles s) (hb : t.bus = s.bus) (hsl : t.slots = s.slots) :
    PinRoles t := by
  obtain ⟨h1, h2, h3, h4, h5, h6⟩ := h
  constructor <;> simpa only [State.slot, hb, hsl]

section
variable {xc xd : Option SlotId} {s t : State}

/-- Driving the bus lines leaves the select lines (R110). -/
theorem RestBut.of_level (h : RestBut xc xd s) (hb : t.bus = s.bus) (hsl : t.slots = s.slots) (ho : t.owner = s.owner)
    (hp : t.params = s.params) (hl : ∀ q, apart s.bus.clk q → apart s.bus.sdo q → t.level q = s.level q) :
    RestBut xc xd t := by
  have hslot (m : SlotId) : t.slot m = s.slot m := by simp only [State.slot, hsl]
  refine ⟨h.roles.of_bus_slots hb hsl, fun m hm => ?_, fun m hm => ?_⟩
  · refine (h.cs m hm).congr (by rw [hslot]) (by rw [hslot]) hp (by rw [ho]) fun hk => ?_
    obtain ⟨hclk, hsdo, -⟩ := h.roles.busCs m hk
    exact hl _ hclk.symm hsdo.symm
  · obtain ⟨hclk, hsdo, -⟩ := h.roles.busDc m
    exact (h.dc m hm).congr (by rw [hslot]) hp (hl _ hclk.symm hsdo.symm)

/-- The select lines depend on the bus, the slots, the owner, the parameters and the levels only. -/
theorem RestBut.congr (h : RestBut xc xd s) (hb : t.bus = s.bus) (hsl : t.slots = s.slots) (ho : t.owner = s.owner)
    (hp : t.params = s.params) (hl : t.lvl = s.lvl) : RestBut xc xd t :=
  h.of_level hb hsl ho hp fun q _ _ => by simp only [State.level, hl]

theorem RestBut.report (h : RestBut xc xd s) (c : ErrCode) : RestBut xc xd (s.report c) := h.congr rfl rfl rfl rfl rfl

theorem RestBut.pinSetup (h : RestBut xc xd s) (p : PinId) (x : Dir) : RestBut xc xd (s.pinSetup p x) :=
  h.congr (by simp) (by simp) (by simp) (by simp) (by simp)

theorem RestBut.writeClk (h : RestBut xc xd s) (b : Level) : RestBut xc xd (s.pinWrite s.bus.clk b) :=
  h.of_level (by simp) (by simp) (by simp) (by simp) fun _ hclk _ => State.pinWrite_level_apart hclk b s

theorem RestBut.engine (h : RestBut xc xd s) (timed : Bool) (d : SlotId) (v : XferWord) (n : Nat) :
    RestBut xc xd (engine timed d v n s).2 := by
  obtain ⟨hrec, hsam, -⟩ := engine_spec timed d v n s
  obtain ⟨-, -, -, -, ho, hb, hsl, -, -, -, hp, -⟩ := hsam.rest
  refine h.of_level hb hsl ho hp fun q hclk hsdo => ?_
  rw [hrec.level, levelAfter_unitEvents_apart hclk hsdo]

end

section
variable {xc xd : Option SlotId} {s : State} {d : SlotId}

theorem RestBut.openDc (h : RestBut xc none s) (d : SlotId) : RestBut xc (some d) s :=
  ⟨h.roles, h.cs, fun m _ => h.dc m nofun⟩

/-- A registered slot's chip-select is driven to the level its hold of the bus asks for; the pin has no other role
(R110). -/
theorem RestBut.writeCs (h : RestBut (some d) xd s) (hk : (s.slot d).kind ≠ .null) {p : PinId} (hp : (s.slot d).cs = p)
    {b : Level} (hb : b = if s.owner = some d then s.params.csActive else s.csIdle) :
    RestBut none xd (s.pinWrite p b) := by
  subst p
  refine ⟨h.roles.of_bus_slots (by simp) (by simp), fun m _ => ?_, fun m hm => ?_⟩
  · by_cases hdm : d = m
    · subst m
      intro _ hcs
      rw [State.pinWrite_slot] at hcs ⊢
      rw [State.pinWrite_level_self hcs, hb]
      simp
    · refine (h.cs m (mt Option.some.inj (Ne.symm hdm))).congr (by simp) (by simp) (by simp) (by simp) fun hkm => ?_
      exact State.pinWrite_level_apart (h.roles.csCs d m hdm hk hkm) b s
  · exact (h.dc m hm).congr (by simp) (by simp) (State.pinWrite_level_apart (h.roles.csDc d m hk) b s)

/-- A slot's mode-select pin is driven; the pin has no other role (R110). -/
theorem RestBut.writeDc (h : RestBut xc (some d) s) {p : PinId} (hp : (s.slot d).dc = p) (b : Level) :
    RestBut xc (some d) (s.pinWrite p b) := by
  subst p
  refine ⟨h.roles.of_bus_slots (by simp) (by simp), fun m hm => ?_, fun m hm => ?_⟩
  · exact (h.cs m hm).congr (by simp) (by simp) (by simp) (by simp) fun hk =>
      State.pinWrite_level_apart (h.roles.csDc m d hk).symm b s
  · have hdm : d ≠ m := fun hdm => hm (congrArg some hdm.symm)
    exact (h.dc m hm).congr (by simp) (by simp) (State.pinWrite_level_apart (h.roles.dcDc d m hdm) b s)

/-- Driven to data, the mode-select pin is at rest (R203). -/
theorem RestBut.writeData (h : RestBut xc (some d) s) {p : PinId} (hp : (s.slot d).dc = p) :
    RestBut xc none (s.pinWrite p s.dcData) := by
  have hw := h.writeDc hp s.dcData
  refine ⟨hw.roles, hw.cs, fun m _ => ?_⟩
  by_cases hdm : d = m
  · subst m
    intro hdc
    rw [State.pinWrite_slot, hp] at hdc ⊢
    rw [State.pinWrite_level_self hdc]
    simp
  · exact hw.dc m (mt Option.some.inj (Ne.symm hdm))

/-- Slot `d` takes or gives up the bus: the other slots hold it as before. -/
theorem RestBut.setOwner (h : RestBut none xd s) {o : Option SlotId}
    (ho : ∀ m, m ≠ d → (o = some m ↔ s.owner = some m)) : RestBut (some d) xd { s with owner := o } := by
  refine ⟨h.roles.of_bus_slots rfl rfl, fun m hm => ?_, h.dc⟩
  exact CsAtRest.congr (s := s) (h.cs m nofun) rfl rfl rfl (ho m fun hmd => hm (congrArg some hmd)) fun _ => rfl

/-- Slot `d` is written with its own mode-select pin, a chip-select pin of a registered one being free (R118). -/
theorem RestBut.setSlot_cs (h : RestBut none none s) {c : Slot} (hdc : c.dc = (s.slot d).dc)
    (hcs : c.kind ≠ .null → offBusAndCs s c.cs ∧ ∀ m, apart c.cs (s.slot m).dc) :
    RestBut (some d) none (s.setSlot d c) := by
  refine ⟨h.roles.setSlot_cs hdc hcs, fun m hm => ?_, fun m hm => ?_⟩
  · have hslot : (s.setSlot d c).slot m = s.slot m := by
      rw [State.setSlot_slot, if_neg fun hdm => hm (congrArg some hdm.symm)]
    exact (h.cs m nofun).congr (by rw [hslot]) (by rw [hslot]) rfl Iff.rfl fun _ => rfl
  · exact (h.dc m hm).congr (State.setSlot_dc hdc m) rfl rfl

/-- Slot `d` is bound to another mode-select pin, which is free (R127). -/
theorem RestBut.setSlot_dc (h : RestBut none none s) {dc : PinId} (hcs : offBusAndCs s dc)
    (hdc : ∀ m, m ≠ d → apart dc (s.slot m).dc) :
    RestBut none (some d) (s.setSlot d { s.slot d with dc := dc }) := by
  refine ⟨h.roles.setSlot_dc hcs hdc, fun m hm => ?_, fun m hm => ?_⟩
  · exact (h.cs m hm).congr (State.setSlot_field Slot.kind (by rfl) m) (State.setSlot_field Slot.cs (by rfl) m) rfl
      Iff.rfl fun _ => rfl
  · refine (h.dc m nofun).congr ?_ rfl rfl
    rw [State.setSlot_slot, if_neg fun hdm => hm (congrArg some hdm.symm)]

end

/-! ### Every command brings the select lines to rest -/

/-- The next state, if there is one, has its select lines at rest but for the mode-select pin of slot `xd`. -/
def RestsBut (xd : Option SlotId) (r : Result) : Prop := ∀ t, r = .next t → RestBut none xd t

theorem restsBut_raise (xd : Option SlotId) (k : FaultKind) (s : State) : RestsBut xd (raise k s) :=
  fun t ht => absurd ht (raise_ne_next k s t)

theorem RestsBut.andThen {xd xd' : Option SlotId} {r : Result} {f : State → Result} (hr : RestsBut xd r)
    (hf : ∀ t, RestBut none xd t → RestsBut xd' (f t)) : RestsBut xd' (andThen r f) := by
  intro t ht
  obtain ⟨u, hu, hfu⟩ := andThen_eq_next.mp ht
  exact hf u (hr u hu) t hfu

section
variable {xd : Option SlotId} {s : State} (h : RestBut none xd s)
include h

theorem RestBut.next : RestsBut xd (.next s) := by
  rintro t ⟨⟩
  exact h

theorem RestBut.complete : RestsBut xd (complete s) := RestBut.next (h.congr rfl rfl rfl rfl rfl)

/-- The bracket's start: nothing on a NULL slot, chip-select with the free bus, a fault on a bus in use (R180). -/
theorem beginStep_rests (d : SlotId) : RestsBut xd (beginStep d s) := by
  by_cases hk : (s.slot d).kind = .null
  · rw [beginStep_null hk]
    exact (h.report .uninit).next
  · rw [beginStep_registered hk]
    rcases takeBus_cases d s with ⟨ho, he⟩ | ⟨-, he⟩ | ⟨_, -, -, he⟩ <;> rw [he]
    · have hown : RestBut (some d) xd { s with owner := some d } := h.setOwner fun m hm => by simp [ho, Ne.symm hm]
      exact (hown.writeCs hk rfl (if_pos rfl).symm).next
    · exact restsBut_raise _ _ _
    · exact restsBut_raise _ _ _

/-- Releasing the bus drives chip-select deasserted; the order of the two does not show (R184). -/
theorem RestBut.releaseBus {d : SlotId} (hk : (s.slot d).kind ≠ .null) : RestBut none xd (s.releaseBus d) := by
  have hown : RestBut (some d) xd { s with owner := if s.owner = some d then none else s.owner } :=
    h.setOwner fun m hm => by
      split
      · rename_i ho; simp [ho, Ne.symm hm]
      · rfl
  have hfree : ¬ (if s.owner = some d then none else s.owner) = some d := by split <;> simp [*]
  rw [State.releaseBus_eq]
  refine (hown.writeCs (b := s.csIdle) hk rfl (if_neg hfree).symm).congr ?_ ?_ ?_ ?_ ?_ <;>
    simp [State.pinWrite_lvl, State.slot]

theorem endStep_rests (d : SlotId) : RestsBut xd (endStep d s) := by
  by_cases hk : (s.slot d).kind = .null
  · rw [endStep_null hk]
    exact (h.report .uninit).next
  · rw [endStep_registered hk]
    exact (h.releaseBus hk).next

theorem writeStep_rests (d : SlotId) (v : XferWord) (n : Nat) : RestsBut xd (writeStep d v n s) := by
  by_cases hk : (s.slot d).kind = .null
  · rw [writeStep_null v n hk]
    exact (h.report .uninit).next
  · rw [writeStep_registered v n hk]
    split
    · exact (h.engine _ d v n).next
    · exact restsBut_raise _ _ _

theorem execTransfer_rests (d : SlotId) (v : XferWord) (n : Nat) : RestsBut xd (execTransfer d v n s) := by
  by_cases hk : (s.slot d).kind = .null
  · rw [execTransfer_null v n hk]
    exact RestBut.complete (h.congr rfl rfl rfl rfl rfl)
  · rw [execTransfer_registered v n hk]
    split
    · exact RestBut.complete ((h.engine _ d v n).congr rfl rfl rfl rfl rfl)
    · exact restsBut_raise _ _ _

theorem execIsReady_rests (d : SlotId) : RestsBut xd (execIsReady d s) := by
  unfold execIsReady
  split
  · exact RestBut.complete (h.congr rfl rfl rfl rfl rfl)
  · exact RestBut.complete (h.congr rfl rfl rfl rfl rfl)
  · exact RestBut.complete (h.congr (by simp) (by simp) (by simp) (by simp) (by simp))

end

/-! ### A frame -/

section
variable {d : SlotId}

theorem sendCommand_rests {s : State} (h : RestBut none (some d) s) (cp : Bool) (cmd : Byte) :
    RestsBut (some d) (sendCommand d cp cmd s) := by
  cases cp with
  | false => exact h.next
  | true => exact writeStep_rests (h.writeDc rfl _) d _ 8

/-- By induction on the bytes still to send (R200). -/
theorem sendBytes_rests (n : Nat) :
    ∀ (a : Nat) (s : State), RestBut none (some d) s → RestsBut (some d) (sendBytes d a n s) := by
  induction n with
  | zero => exact fun _ _ h => h.next
  | succ n ih =>
    intro a s h
    cases hb : s.memRead a with
    | none => simp only [sendBytes, hb]; exact restsBut_raise _ _ _
    | some b => simp only [sendBytes, hb]; exact (writeStep_rests h d _ 8).andThen (ih _)

theorem sendData_rests {s : State} (h : RestBut none (some d) s) (len addr : BitVec 16) :
    RestsBut (some d) (sendData d len addr s) := by
  unfold sendData
  split
  · exact h.next
  · exact sendBytes_rests _ _ _ (h.writeDc rfl _)

/-- The frame's mode-select pin is at work from the bracket's start on, and back at data at the end (R203). -/
theorem sendFrame_rests {s : State} (h : RestBut none none s) (cp : Bool) (cmd : Byte) (len addr : BitVec 16) :
    RestsBut none (sendFrame d cp cmd len addr s) := by
  have hdata := ((beginStep_rests h d).andThen fun _ hu => sendCommand_rests (hu.openDc d) cp cmd).andThen
    fun _ hu => sendData_rests hu len addr
  exact hdata.andThen fun _ hu => (endStep_rests hu d).andThen fun _ hv => (hv.writeData rfl).next

theorem execWriteCmdData_rests {s : State} (h : RestBut none none s) (d : SlotId) (cp : Bool) (cmd : Byte)
    (len addr : BitVec 16) : RestsBut none (execWriteCmdData d cp cmd len addr s) := by
  unfold execWriteCmdData
  split
  · exact (h.report .range).complete
  · exact (sendFrame_rests h cp cmd len addr).andThen fun _ hu => hu.complete

end

/-! ### The bus manager -/

section
variable {s : State} (h : RestBut none none s)
include h

/-- SETUP drives its clock, which is no slot's mode-select pin, and no slot is registered yet (R112). -/
theorem execSetup_rests (hd : DelegateInv s) (clk sdo sdi : PinId) (hw : Bool) (iface : BitVec 8) :
    RestsBut none (execSetup clk sdo sdi hw iface s) := by
  by_cases hc : s.cstate = .unconfigured
  · by_cases hclk : clk = noPin
    · subst hclk
      rw [execSetup_noClk hc]
      exact RestBut.next (h.congr rfl rfl rfl rfl rfl)
    · by_cases hfree : busPinsFree s clk sdo sdi
      · have hbus (hw : Bool) (c : CState) : RestBut none none (s.setBus clk sdo sdi hw iface c) :=
          ⟨h.roles.setBus (hd.null hc) hfree hw iface c, h.cs, h.dc⟩
        rw [execSetup_free hc hclk hfree]
        cases hw with
        | true =>
          cases ha : s.factoryAnswer iface clk sdo sdi with
          | ok =>
            rw [if_pos rfl, setupHw_ok ha]
            exact RestBut.next ((hbus true .readyHw).congr rfl rfl rfl rfl rfl)
          | fail =>
            rw [if_pos rfl, setupHw_fail ha]
            exact RestBut.next (h.congr rfl rfl rfl rfl rfl)
        | false =>
          have hdrive := ((hbus false .readySw).pinSetup clk .output).writeClk true
          rw [State.pinSetup_bus] at hdrive
          exact ((hdrive.pinSetup sdo .output).pinSetup sdi .input).complete
      · rw [execSetup_shared hc hclk hfree]
        exact restsBut_raise _ _ _
  · rw [execSetup_configured hc]
    exact RestBut.next (h.congr rfl rfl rfl rfl rfl)

/-- REGISTER drives the slot's chip-select deasserted; the slot was NULL, so it does not hold the bus (R117, R118). -/
theorem execRegister_rests (hd : DelegateInv s) (d : SlotId) (cpol : Level) (cpha : ClockPhase) (order : BitOrder)
    (cs : PinId) (rate : BitVec 32) : RestsBut none (execRegister d cpol cpha order cs rate s) := by
  cases hk : s.cstate.delegate with
  | none => rw [execRegister, hk]; exact (h.report .notReady).complete
  | some k =>
    rw [execRegister_ready hk]
    split
    · exact (h.report .regDuplicate).complete
    · rename_i hnull
      split
      · exact restsBut_raise _ _ _
      · rename_i ha
        have hfree := not_not.mp (mt State.registerAlias_iff.mpr ha)
        have ho : s.owner ≠ some d := fun ho => hd.owner d ho (not_not.mp hnull)
        refine RestBut.complete (.writeCs (d := d) (.pinSetup (h.setSlot_cs (by rfl) ?_) cs .output) ?_ ?_ ?_)
        · exact fun _ => hfree
        · simpa using CState.delegate_ne_null hk
        · simp
        · simp [ho]

/-- UNREGISTER leaves a NULL slot, whose chip-select no longer counts, and its DC (R124, R39). -/
theorem execUnregister_rests (d : SlotId) : RestsBut none (execUnregister d s) := by
  unfold execUnregister
  split
  · exact (h.report .unregUnknown).complete
  split
  · exact restsBut_raise _ _ _
  · have hset := h.setSlot_cs (d := d) (c := { Slot.reset with dc := (s.slot d).dc }) rfl (absurd rfl)
    refine RestBut.complete ⟨hset.roles, fun m _ => ?_, hset.dc⟩
    by_cases hdm : d = m
    · intro hk
      rw [State.setSlot_slot, if_pos hdm] at hk
      exact absurd rfl hk
    · exact hset.cs m (mt Option.some.inj (Ne.symm hdm))

/-- SET_DC drives the pin it binds to data (R126). -/
theorem execSetDc_rests (d : SlotId) (dc : PinId) : RestsBut none (execSetDc d dc s) := by
  unfold execSetDc
  split
  · exact restsBut_raise _ _ _
  · rename_i ha
    obtain ⟨hcs, hdc⟩ := not_not.mp (mt State.dcAlias_iff.mpr ha)
    have hset := (h.setSlot_dc hcs hdc).pinSetup dc .output
    have hdata := hset.writeData (p := dc) (by simp)
    exact RestBut.complete (hdata.congr (by simp) (by simp) (by simp) (by simp) (by simp))

/-- Every command that completes brings the select lines to rest. -/
theorem exec_rests (hd : DelegateInv s) (i : Instr) : RestsBut none (exec i s) := by
  cases i with
  | setup clk sdo sdi hw iface => exact execSetup_rests h hd clk sdo sdi hw iface
  | register d cpol cpha order cs rate => exact execRegister_rests h hd d cpol cpha order cs rate
  | unregister d => exact execUnregister_rests h d
  | setDc d dc => exact execSetDc_rests h d dc
  | beginTxn d => exact (beginStep_rests h d).andThen fun _ hu => hu.complete
  | endTxn d => exact (endStep_rests h d).andThen fun _ hu => hu.complete
  | transfer d value nbits => exact execTransfer_rests h d value nbits
  | write d value nbits => exact (writeStep_rests h d value nbits).andThen fun _ hu => hu.complete
  | transfer8 d byte => rw [exec, execTransfer8_eq]; exact execTransfer_rests h d _ 8
  | isReady d => exact execIsReady_rests h d
  | writeCmdData d cp cmd len addr => exact execWriteCmdData_rests h d cp cmd len addr

end

/-- Settles O56: a command brings the select lines to rest, a reset leaves none, and nothing else the host does moves
them. -/
theorem stepKeepsSelectLinesAtRest : Obligations.StepKeepsSelectLinesAtRest := by
  unfold Obligations.StepKeepsSelectLinesAtRest
  intro s t hd hp hc hm h
  have hs := RestBut.of_inv hp hc hm
  obtain ⟨-, ⟨-, rfl⟩ | ⟨a, rest, -, ⟨w, i, -, -, he⟩ | ⟨w, e, -, -, rfl⟩ | ⟨r, -, rfl⟩ | ⟨r, m, -, rfl⟩ |
    ⟨x, b, -, rfl⟩ | ⟨-, rfl⟩⟩⟩ := step_cases h
  · exact hs.inv
  · have hstart : RestBut none none (s.taken rest).startCommand := hs.congr rfl rfl rfl rfl rfl
    have hdel : DelegateInv (s.taken rest).startCommand := hd.congr (s := s) ⟨rfl, rfl, rfl, rfl, rfl⟩
    exact (exec_rests hstart hdel i t he).inv
  · exact (hs.congr rfl rfl rfl rfl rfl).inv
  · exact (hs.congr rfl rfl rfl rfl rfl).inv
  · refine RestBut.inv (hs.congr ?_ ?_ ?_ ?_ ?_) <;> simp [State.taken]
  · exact (hs.congr rfl rfl rfl rfl rfl).inv
  · exact ⟨fun d hk => absurd (by simp [Slot.reset]) hk, fun d hdc => absurd (by simp [Slot.reset]) hdc⟩

end Sys2Proof.Machine

/-!
The family of 43_framing.md. A frame is read off from its four parts: the start, the data bytes, the bracket's end and
the last mode-select write. On a registered slot each part takes samples (`Sampled`); on a NULL slot each part only
reports code 5 and drives mode-select (`NullRun`).
-/

namespace Sys2Proof.Machine

/-! ### The range of a frame -/

/-- Settles O38: the range check stands before every part of the frame (R201). -/
theorem frameRangeReportsEight : Obligations.FrameRangeReportsEight := by
  unfold Obligations.FrameRangeReportsEight
  intro s d cp cmd len addr hlen
  rw [exec, execWriteCmdData, if_pos (rangeLeavesDbuf_iff.mpr hlen)]
  rfl

/-! ### A frame that completes -/

/-- A frame whose parts all go on, its range being in the data buffer, ends with mode-select at data (R200, R203). -/
theorem execWriteCmdData_completes {d : SlotId} {cp : Bool} {cmd : Byte} {len addr : BitVec 16} {s u v w : State}
    (hlen : addr.toNat + len.toNat ≤ 65536) (hstart : andThen (beginStep d s) (sendCommand d cp cmd) = .next u)
    (hdata : sendData d len addr u = .next v) (hend : endStep d v = .next w) :
    execWriteCmdData d cp cmd len addr s = .next (w.modeSelect d w.dcData).advance := by
  have hrange : ¬ rangeLeavesDbuf len addr = true := by rw [rangeLeavesDbuf_iff]; omega
  rw [execWriteCmdData, if_neg hrange, sendFrame, hstart, andThen_next, hdata, andThen_next, hend]
  rfl

/-- The bracket's end and the last mode-select write: chip-select deasserted, then mode-select to data (R202, R203). -/
theorem State.releaseBus_modeSelect_records (d : SlotId) (s : State) :
    Records s ((s.releaseBus d).modeSelect d (s.releaseBus d).dcData)
      (writeEvent (s.slot d).cs s.csIdle ++ writeEvent (s.slot d).dc s.dcData) := by
  have hselect := (s.releaseBus d).modeSelect_records d (s.releaseBus d).dcData
  have hslot : (s.releaseBus d).slot d = s.slot d := by simp
  have hdata : (s.releaseBus d).dcData = s.dcData := by simp
  rw [hslot] at hselect
  rw [← hdata]
  exact (s.releaseBus_records d).trans hselect

/-- The frame up to its end, on a registered slot, a free bus and bytes the host wrote (R200). -/
theorem frameSent_free {d : SlotId} {s : State} (cp : Bool) (cmd : Byte) {len addr : BitVec 16}
    (hk : (s.slot d).kind ≠ .null) (ho : s.owner = none) (hw : bufWritten s.dbuf addr.toNat len.toNat) :
    ∃ u v, andThen (beginStep d s) (sendCommand d cp cmd) = .next u ∧ sendData d len addr u = .next v ∧
      Records s v (frameHead s d cp cmd (!(bufBytes s.dbuf addr.toNat len.toNat).isEmpty)
        (bufBytes s.dbuf addr.toNat len.toNat)) ∧
      Sampled { s with owner := some d } (8 * (len.toNat + if cp then 1 else 0)) v := by
  obtain ⟨u, hstart, r1, m1⟩ := frameStart_free cp cmd hk ho
  have hslot : u.slot d = s.slot d := m1.slot d
  have hsample : u.sample = fun j => s.sample (j + if cp then 8 else 0) := m1.sample_fun
  obtain ⟨-, -, -, -, howner, hbus, -, -, hdbuf, -, hparams, -⟩ := m1.rest
  have hdata : u.dcData = s.dcData := by simp [hparams]
  obtain ⟨v, hsend, r2, m2⟩ := sendData_owner (s := u) len addr (by rwa [hslot]) howner (by rwa [hdbuf])
  rw [hslot, hbus, hdbuf, hsample, hdata] at r2
  have hcount : (if cp then 8 else 0) + 8 * len.toNat = 8 * (len.toNat + if cp then 1 else 0) := by split <;> omega
  exact ⟨u, v, hstart, hsend, r1.trans r2, hcount ▸ m1.trans m2⟩

/-- Settles O36: the frame up to its end, the bracket's end and the last mode-select write. -/
theorem frameSendsCommandAndData : Obligations.FrameSendsCommandAndData := by
  unfold Obligations.FrameSendsCommandAndData
  intro s d cp cmd len addr hlen hk ho hw
  obtain ⟨u, v, hstart, hsend, hhead, hsam⟩ := frameSent_free cp cmd hk ho hw
  have hslot : v.slot d = s.slot d := hsam.slot d
  have hend := v.releaseBus_modeSelect_records d
  have hdata : v.dcData = s.dcData := by simp [hsam.rest]
  have hidle : v.csIdle = s.csIdle := by simp [hsam.rest]
  rw [hslot, hdata, hidle] at hend
  refine ⟨_, execWriteCmdData_completes hlen hstart hsend (endStep_registered (by rwa [hslot])), ?_, ?_⟩
  · rw [frameEvents, List.append_assoc]
    exact (hhead.trans hend).right rfl rfl rfl
  · rw [State.ext_iff, State.releaseBus_eq]
    simp [hsam.rest, ho, State.envAfterSamples]

/-! ### A frame on a NULL slot -/

/-- `t` is `s` after delegate calls on a NULL slot, at least one, and the mode-select writes between them: the events
`es` are recorded, and nothing else changes but STATUS, which holds report 5 (R174, R205). -/
structure NullRun (s : State) (es : List Event) (t : State) : Prop where
  /-- The events, in order: reports and mode-select writes. -/
  records : Records s t es
  /-- STATUS holds report 5; every other register, the data buffer and the environment are as before. -/
  frame : t = { s with status := s.status.report .uninit, trace := t.trace, lvl := t.lvl }

theorem levelAfter_replicate_err (q : PinId) (n : Nat) (c : ErrCode) (o : Option Level) :
    levelAfter q (List.replicate n (.err c)) o = o := by
  induction n with
  | zero => rfl
  | succ n ih => exact ih

theorem dirAfter_replicate_err (q : PinId) (n : Nat) (c : ErrCode) (o : Option Dir) :
    dirAfter q (List.replicate n (.err c)) o = o := by
  induction n with
  | zero => rfl
  | succ n ih => exact ih

/-- The byte loop goes on where its first `k` bytes left it. -/
theorem sendBytes_add (d : SlotId) (n k : Nat) : ∀ (a : Nat) (s : State),
    sendBytes d a (k + n) s = andThen (sendBytes d a k s) (sendBytes d (a + k) n) := by
  induction k with
  | zero => intro a s; rw [Nat.zero_add]; rfl
  | succ k ih =>
    intro a s
    rw [Nat.succ_add]
    cases hb : s.memRead a with
    | none => simp only [sendBytes, hb, andThen_raise]
    | some b =>
      simp only [sendBytes, hb, andThen_assoc]
      rw [funext (ih (a + 1)), Nat.add_assoc a 1 k, Nat.add_comm 1 k]

/-- The byte loop faults at once on an unwritten byte (R61). -/
theorem sendBytes_unwritten {d : SlotId} {a n : Nat} {s : State} (hn : 0 < n) (hu : s.memRead a = none) :
    sendBytes d a n s = raise .unwrittenDbuf s := by
  cases n with
  | zero => omega
  | succ n => simp only [sendBytes, hu]

/-- The bracket's start on a NULL slot (R174). -/
theorem NullRun.start (s : State) : NullRun s [.err .uninit] s.nullReport := ⟨s.report_records .uninit, rfl⟩

section
variable {s t : State} {es : List Event} {d : SlotId} (h : NullRun s es t)
include h

theorem NullRun.slot : t.slot d = s.slot d := by rw [h.frame]; rfl

theorem NullRun.params : t.params = s.params := by rw [h.frame]

theorem NullRun.dbuf : t.dbuf = s.dbuf := by rw [h.frame]

theorem NullRun.dcData : t.dcData = s.dcData := by simp [h.params]

theorem NullRun.nullReport : NullRun s (es ++ [.err .uninit]) t.nullReport := by
  refine ⟨h.records.trans (t.report_records .uninit), ?_⟩
  rw [State.ext_iff, h.frame]
  simp [Status.report_report]

theorem NullRun.modeSelect (b : Level) : NullRun s (es ++ writeEvent (s.slot d).dc b) (t.modeSelect d b) := by
  refine ⟨h.slot (d := d) ▸ h.records.trans (t.modeSelect_records d b), ?_⟩
  rw [State.ext_iff, h.frame]
  simp

/-- The byte loop over written bytes: a report for each (R205). -/
theorem NullRun.sendBytes {a n : Nat} (hk : (s.slot d).kind = .null) (hw : bufWritten s.dbuf a n) :
    ∃ u, Machine.sendBytes d a n t = .next u ∧ NullRun s (es ++ List.replicate n (.err .uninit)) u := by
  refine ⟨_, sendBytes_null d n a t (by rwa [h.slot]) (by rwa [h.dbuf]),
    h.records.trans ⟨rfl, fun q => ?_, fun q => ?_⟩, ?_⟩
  · rw [levelAfter_replicate_err]; rfl
  · rw [dirAfter_replicate_err]; rfl
  · rw [State.ext_iff, h.frame]
    simp [Status.report_report]

/-- The data bytes, all written by the host: mode-select to data if there is one, and a report for each. -/
theorem NullRun.sendData {len addr : BitVec 16} (hk : (s.slot d).kind = .null)
    (hw : bufWritten s.dbuf addr.toNat len.toNat) :
    ∃ u, Machine.sendData d len addr t = .next u ∧ NullRun s (es ++ if decide (len.toNat ≠ 0) then
      writeEvent (s.slot d).dc s.dcData ++ List.replicate len.toNat (.err .uninit) else []) u := by
  unfold Machine.sendData
  by_cases h0 : len.toNat = 0
  · rw [if_pos h0, if_neg (by simp [h0]), List.append_nil]
    exact ⟨t, rfl, h⟩
  · rw [if_neg h0, if_pos (by simp [h0]), ← List.append_assoc, h.dcData]
    exact (h.modeSelect s.dcData).sendBytes hk hw

/-- The data bytes up to the first the host never wrote. -/
theorem NullRun.sendData_unwritten {len addr : BitVec 16} {k : Nat} (hk : (s.slot d).kind = .null)
    (hn : k < len.toNat) (hw : bufWritten s.dbuf addr.toNat k) (hu : s.byteAt (addr.toNat + k) = none) :
    ∃ u, Machine.sendData d len addr t = raise .unwrittenDbuf u ∧
      NullRun s (es ++ (writeEvent (s.slot d).dc s.dcData ++ List.replicate k (.err .uninit))) u := by
  obtain ⟨u, hsent, hrun⟩ := (h.modeSelect (d := d) s.dcData).sendBytes hk hw
  rw [List.append_assoc] at hrun
  have hread : u.memRead (addr.toNat + k) = none := by rw [State.memRead, hrun.dbuf]; exact hu
  refine ⟨u, ?_, hrun⟩
  have hlen : len.toNat = k + (len.toNat - k) := by omega
  rw [Machine.sendData, if_neg (by omega), h.dcData, hlen, sendBytes_add, hsent, andThen_next,
    sendBytes_unwritten (by omega) hread]

end

/-- The frame up to its data bytes, on a NULL slot: a report for the begin, and one for the command byte (R205). -/
theorem frameStart_null {d : SlotId} {s : State} (cp : Bool) (cmd : Byte) (hk : (s.slot d).kind = .null) :
    ∃ u, andThen (beginStep d s) (sendCommand d cp cmd) = .next u ∧
      NullRun s ([.err .uninit] ++
        if cp then writeEvent (s.slot d).dc s.params.dcCommand ++ [.err .uninit] else []) u := by
  have hbegin := NullRun.start s
  rw [beginStep_null hk, andThen_next]
  cases cp with
  | false => exact ⟨_, rfl, hbegin⟩
  | true =>
    have hselect := hbegin.modeSelect (d := d) s.params.dcCommand
    have hnull : ((s.nullReport.modeSelect d s.params.dcCommand).slot d).kind = .null := by rwa [hselect.slot]
    exact ⟨_, writeStep_null _ _ hnull, hselect.nullReport⟩

/-- Settles O37: the frame's parts on a NULL slot, up to its end or to the first byte the host never wrote. -/
theorem frameOnNullSlotReportsFive : Obligations.FrameOnNullSlotReportsFive := by
  unfold Obligations.FrameOnNullSlotReportsFive
  intro s d cp cmd len addr hlen hk
  obtain ⟨u, hstart, hu⟩ := frameStart_null cp cmd hk
  constructor
  · intro hw
    obtain ⟨v, hdata, hv⟩ := hu.sendData hk hw
    have hend := hv.nullReport
    have hlast := hend.modeSelect (d := d) s.dcData
    have hrun := execWriteCmdData_completes hlen hstart hdata (endStep_null (by rwa [hv.slot]))
    rw [hend.dcData] at hrun
    refine ⟨_, hrun, hlast.records.right rfl rfl rfl, ?_⟩
    rw [State.advance, hlast.frame]
  · intro k hn hw hb
    obtain ⟨v, hraise, hv⟩ := hu.sendData_unwritten hk hn hw hb
    refine ⟨{ v with fault := some .unwrittenDbuf }, execWriteCmdData_raises hlen hstart hraise,
      hv.records.right rfl rfl rfl, ?_⟩
    rw [hv.frame]

end Sys2Proof.Machine

/-!
The family of 44_host_port.md. A step on an action of the host answers that action's operation on the state with the
action taken (`step_action`), so each statement is about one operation. The clear of STATUS is followed into the word
the host reads: a sticky bit cleared by the mask is a bit masked out.
-/

namespace Sys2Proof.Machine

/-! ### The clear mask in the word of STATUS -/

/-- A register bit cleared by the same bit of a mask. -/
theorem regBit_clear (k : Nat) (b : Bool) (x : RegWord) : regBit k (b && !x.getLsbD k) = regBit k b &&& ~~~x := by
  apply BitVec.eq_of_getLsbD_eq
  intro i hi
  rw [BitVec.getLsbD_and, BitVec.getLsbD_not, regBit_getLsbD, regBit_getLsbD]
  by_cases h : i = k
  · subst h; simp [hi]
  · simp [h]

/-- A sticky bit cleared by the host: of the mask only bits 4 to 7 are used (R221). -/
theorem regBit_stickyClear {k : Nat} (h : 4 ≤ k ∧ k < 8) (b : Bool) (m : RegWord) :
    regBit k (b && !m.getLsbD k) = regBit k b &&& ~~~(m &&& 0xF0#32) := by
  have hbit : ∀ j < 8, 4 ≤ j → (0xF0#32).getLsbD j = true := by decide
  have hmask : (m &&& 0xF0#32).getLsbD k = m.getLsbD k := by
    rw [BitVec.getLsbD_and, hbit k h.2 h.1, Bool.and_true]
  rw [← hmask, regBit_clear]

/-- The mask leaves LAST_ERR: its bits 0 to 3 are not used (R221). -/
theorem lastErr_stickyClear (c : BitVec 4) (m : RegWord) : regField 0 c &&& ~~~(m &&& 0xF0#32) = regField 0 c := by
  have hbit : ∀ j < 4, (0xF0#32).getLsbD j = false := by decide
  apply BitVec.eq_of_getLsbD_eq
  intro i hi
  rw [BitVec.getLsbD_and, BitVec.getLsbD_not, BitVec.getLsbD_and, regField_getLsbD]
  by_cases h : i < 4
  · rw [hbit i h]; simp [hi]
  · simp [c.getLsbD_of_ge i (by omega)]

/-- The host's clear, as the host reads STATUS after it: STATUS AND NOT m[7:4] (R221). -/
theorem Status.word_clearSticky (m : RegWord) (t : Status) :
    (t.clearSticky m).word = t.word &&& ~~~(m &&& 0xF0#32) := by
  simp only [Status.word, Status.clearSticky, BitVec.and_or_distrib_right, lastErr_stickyClear]
  rw [regBit_stickyClear (k := 4) (by omega), regBit_stickyClear (k := 5) (by omega),
    regBit_stickyClear (k := 6) (by omega), regBit_stickyClear (k := 7) (by omega)]

/-! ### A register write -/

/-- A register other than STATUS takes no write (R221). -/
theorem State.hostWrite_of_ne {r : BitVec 8} (h : r ≠ 0x01#8) (m : RegWord) (s : State) : s.hostWrite r m = s :=
  if_neg h

/-- A register write changes STATUS at most (R221). -/
theorem State.hostWrite_eq (r : BitVec 8) (m : RegWord) (s : State) :
    s.hostWrite r m = { s with status := (s.hostWrite r m).status } := by
  rw [State.ext_iff]
  simp

/-! ### The host's actions -/

/-- Settles O9: the write changes STATUS at most, to the masked word if it is STATUS's number, else not at all. -/
theorem statusClearClearsTheMaskedBits : Obligations.StatusClearClearsTheMaskedBits := by
  unfold Obligations.StatusClearClearsTheMaskedBits
  intro s r m rest hf ha
  refine ⟨_, step_action hf ha, State.hostWrite_eq r m (s.taken rest), ?_, ?_⟩
  · rintro rfl
    exact Status.word_clearSticky m s.status
  · intro hr
    rw [State.hostWrite_of_ne hr]
    rfl

/-- Settles O8: serving the read appends its value to what the host received. -/
theorem registerReadChangesNothing : Obligations.RegisterReadChangesNothing := by
  unfold Obligations.RegisterReadChangesNothing
  intro s r rest hf ha
  exact step_action hf ha

/-- Settles O10: the next state differs in the data buffer, which reads as a written one does (`Cells.read_write`). -/
theorem bufferWriteSetsItsByteOnly : Obligations.BufferWriteSetsItsByteOnly := by
  unfold Obligations.BufferWriteSetsItsByteOnly
  intro s a b rest hf ha
  have hread (a' : Nat) : ((s.taken rest).hostWriteBuf a b).byteAt a' = if a.toNat = a' then some b else s.byteAt a' :=
    Cells.read_write a.toNat a' b s.dbuf
  refine ⟨_, step_action hf ha, rfl, ?_, fun a' hne => ?_⟩
  · rw [hread, if_pos rfl]
  · rw [hread, if_neg hne.symm]

end Sys2Proof.Machine


/-!
The family of 60_exceptions.md: what a report leaves in STATUS, and what a failed setup and an idle machine keep.
-/

namespace Sys2Proof.Machine

/-! ### A report -/

/-- STATUS after a report: the code, and every sticky bit as it was unless the code is one of its own (R230, R232). -/
theorem Status.report_eq (c : ErrCode) (t : Status) :
    t.report c = {
      lastErr := some c
      sFatal := t.sFatal || decide (c = .setupNoClk ∨ c = .setupHwAlloc)
      sReg := t.sReg || decide (c = .regDuplicate ∨ c = .unregUnknown ∨ c = .notReady)
      sUninit := t.sUninit || decide (c = .uninit)
      sIllegal := t.sIllegal || decide (c = .illegal ∨ c = .range) } := by
  cases c <;> simp [Status.report]

/-- Settles O17: a report writes STATUS (`Status.report_eq`) and emits its event, nothing else. -/
theorem reportSetsCodeAndStickyBit : Obligations.ReportSetsCodeAndStickyBit := by
  unfold Obligations.ReportSetsCodeAndStickyBit
  intro s c
  rw [← Status.report_eq]
  rfl

/-! ### A failed setup -/

/-- Once SETUP has left UNCONFIGURED no command changes CSTATE: a second SETUP is only reported (R112, R114). -/
theorem Effect.cstate_of_configured {s v : State} {i : Instr} (h : Effect s i v) (hc : s.cstate ≠ .unconfigured) :
    v.cstate = s.cstate := by
  cases h with
  | setupFails hun => exact absurd hun hc
  | setup hun => exact absurd hun hc
  | _ => rfl

/-- Settles O44: a step that is no reset leaves CSTATE or serves a command, and FAILED is not UNCONFIGURED. -/
theorem failedSetupIsFinal : Obligations.FailedSetupIsFinal := by
  unfold Obligations.FailedSetupIsFinal
  intro s t hfailed h
  rcases step_regs h with hr | ⟨hreset, -⟩ | ⟨w, rest, i, u, v, -, -, hu, he, hv⟩
  · exact .inl (hr.cstate.trans hfailed)
  · exact .inr hreset
  · have hcu : u.cstate = .failed := hu.cstate.trans hfailed
    have hcv : v.cstate = u.cstate := he.cstate_of_configured (by simp [hcu])
    exact .inl (hv.cstate.trans (hcv.trans hcu))

/-! ### The idle machine -/

/-- Settles O13: with no fault and no action to come the step is the idle step. -/
theorem idleMachineHoldsItsState : Obligations.IdleMachineHoldsItsState := by
  unfold Obligations.IdleMachineHoldsItsState
  exact fun _ hf ha => step_idle hf ha

end Sys2Proof.Machine
